-- ==== Sys2Proof/Word.lean ====
section
/-!
DEFINITION. The word types of the block and the three small enumerations its rules speak in: privilege levels,
access kinds, host registers (spec 00_scope.md R2, R8, R10; 30_encoding.md R139; 10_state.md R55).
-/

namespace Sys2Proof

/-- A 64-bit register, address or CSR value (R2: XLEN = 64, the source's `u64`). -/
abbrev Word := BitVec 64

/-- The contents of one vector register: an unsigned integer in `[0, 2^VLEN)` (R8, R28).
VLEN is a parameter of the configuration (R6), so the bound is an invariant of the state and no part of the type;
the one operation that writes a vector register keeps only the low VLEN bits (notes/assumptions/6.md, DESIGN CHOICE). -/
abbrev VReg := Nat

/-- An index into one of the three register files (R24: a 5-bit value 0..31). -/
abbrev RegIndex := Fin 32

/-- An exception code (R138, R380: 0..15). -/
abbrev ExcCode := Fin 16

/-- The privilege levels (R10, R29): one of U, S, M. -/
inductive Priv where
  | U | S | M
  deriving DecidableEq, Repr

/-- The access kinds of CHECK_ACCESS (R139). -/
inductive AccessKind where
  | read | write | exec
  deriving DecidableEq, Repr

/-- The two host-interface scratch registers (R55). -/
inductive HostReg where
  | tohost | fromhost
  deriving DecidableEq, Repr

end Sys2Proof
end

