-- ==== Sys2Proof/Config.lean ====
section
/-!
DEFINITION. The configuration: the build-time parameters of one block (spec 00_scope.md R5, R6), their legal values,
the test configuration TESTCFG (95_test_vectors.md section 0), and the two opaque constants that stand for what the
spec leaves open: the engine's decode function (R149, R330) and the free value on the `roper` port lines (R132).
-/

namespace Sys2Proof

/-- The legal values of `PMP_COUNT` (R6: 0, 16 or 64 implemented PMP entries). -/
inductive PmpCount where
  | none | sixteen | sixtyFour
  deriving DecidableEq, Repr

/-- `PMP_COUNT` as a number. -/
def PmpCount.toNat : PmpCount → Nat
  | .none => 0
  | .sixteen => 16
  | .sixtyFour => 64

/-- The open parameters of R6, under their names there. The fixed ones are `pmpCheckWidth` below, XLEN = 64
(`Word`), FLEN_STORE = 64 (the FP registers are `Word`s) and PMP_GRAIN = 0 (R53: no `pmpaddr` bit reads differently
from storage; R297: NA4 is selectable).
No command changes a configuration (R5, R21); it is carried in the state as plain data, so every statement about
every state is a statement about every configuration (notes/assumptions/1.md, DESIGN CHOICE). -/
structure Config where
  hasU : Bool
  hasS : Bool
  hasF : Bool
  hasD : Bool
  hasV : Bool
  hasC : Bool
  /-- bits per vector register -/
  vlen : Nat
  pmpCount : PmpCount
  /-- the letters reported in `misa[25:0]` -/
  misaExt : BitVec 26
  mvendorid : Word
  marchid : Word
  mimpid : Word
  mhartid : Word
  deriving DecidableEq, Repr

/-- The legal values of VLEN (R6: a power of two, 128 ≤ VLEN ≤ 65536). -/
def legalVlens : List Nat :=
  [128, 256, 512, 1024, 2048, 4096, 8192, 16384, 32768, 65536]

/-- The constraints of R6 and R41 on a configuration: HAS_S → HAS_U, HAS_D → HAS_F, VLEN in range, and the letters
of `MISA_EXT` that must agree with the HAS_* parameters. -/
def Config.legal (c : Config) : Bool :=
  (!c.hasS || c.hasU) && (!c.hasD || c.hasF) && legalVlens.contains c.vlen &&
  c.misaExt.getLsbD 8 && (c.misaExt.getLsbD 2 == c.hasC) && (c.misaExt.getLsbD 3 == c.hasD) &&
  (c.misaExt.getLsbD 5 == c.hasF) && (c.misaExt.getLsbD 18 == c.hasS) && (c.misaExt.getLsbD 20 == c.hasU) &&
  (c.misaExt.getLsbD 21 == c.hasV)

/-- `PMP_CHECK_WIDTH` (R6, R104): the bytes covered by one CHECK_ACCESS. -/
def pmpCheckWidth : Nat := 8

/-- TESTCFG (95_test_vectors.md section 0): every extension, VLEN 128, 16 PMP entries, identity values 0, and
`MISA_EXT` = the letters I, M, A, F, D, C, S, U, V. -/
def testcfg : Config where
  hasU := true
  hasS := true
  hasF := true
  hasD := true
  hasV := true
  hasC := true
  vlen := 128
  pmpCount := .sixteen
  misaExt := 0x34112D#26
  mvendorid := 0
  marchid := 0
  mimpid := 0
  mhartid := 0

/-- The engine's decoded operations (R149): opaque to the block, with one distinguished variant `Illegal(bits)`.
A structured operation is the engine's own data; the block only carries it, so it is named here by a number
(notes/assumptions/8.md, DESIGN CHOICE). -/
inductive Operation where
  /-- the distinguished illegal variant, carrying the original bits -/
  | illegal (bits : BitVec 32)
  /-- a structured operation value of the engine -/
  | structured (token : Nat)
  deriving DecidableEq, Repr, Inhabited

/-- What the engine's decoder says of a 32-bit word: `none` for an illegal one, else its operation's number.
Total over all words (R143, R330) and otherwise open (93_implementation_defined.md U15): no body. -/
opaque Config.engineDecode : BitVec 32 → Option Nat

/-- The value of the `roper` response lines after a command other than DECODE, which R132 calls unspecified: a free
value, one for each count of the state's `freeIndex` (notes/assumptions/7.md). No body. -/
opaque Config.freeOper : Nat → Operation

end Sys2Proof
end

