-- ==== Sys2Proof/Syntax.lean ====
section
/-!
DEFINITION. The syntax of the block: the request of its command port, the 26 commands of the op-code table as one
inductive, and the CSRs by name (spec 30_encoding.md R131, R133; 10_state.md R30).
-/

namespace Sys2Proof

/-- One request on the command port (R131). -/
structure Request where
  op : BitVec 8
  idx : BitVec 12
  kind : BitVec 6
  data : Word
  data2 : Word
  vdata : VReg
  deriving DecidableEq, Repr

/-- The commands of the port (R133), one constructor per row of the op-code table, each with the request fields its
rule names and no other (R131: a command ignores every field its rule does not name). Fields are carried as they
stand on the port; which values are in the command's operand domain is R135, checked in `Instr.wellFormed` and
answered by BAD_OPERAND in the meanings. -/
inductive Instr where
  /-- R331 -/
  | reset
  /-- R170 -/
  | readGpr (idx : BitVec 12)
  /-- R171 -/
  | writeGpr (idx : BitVec 12) (data : Word)
  /-- R172 -/
  | readFpr (idx : BitVec 12)
  /-- R173 -/
  | writeFpr (idx : BitVec 12) (data : Word)
  /-- R174 -/
  | readVr (idx : BitVec 12)
  /-- R175 -/
  | writeVr (idx : BitVec 12) (vdata : VReg)
  /-- R176 -/
  | readPc
  /-- R177 -/
  | writePc (data : Word)
  /-- R178 -/
  | readNextPc
  /-- R179 -/
  | writeNextPc (data : Word)
  /-- R180 -/
  | readHost (idx : BitVec 12)
  /-- R181 -/
  | writeHost (idx : BitVec 12) (data : Word)
  /-- R200 -/
  | readCsr (idx : BitVec 12)
  /-- R201 -/
  | writeCsr (idx : BitVec 12) (data : Word)
  /-- R202 -/
  | isCsrDefined (idx : BitVec 12)
  /-- R221 -/
  | setVconfig (data data2 : Word)
  /-- R220 -/
  | setMipPlatform (data : Word)
  /-- R260 -/
  | getPriv
  /-- R261 -/
  | setPriv (idx : BitVec 12)
  /-- R263 -/
  | injectException (kind : BitVec 6) (data : Word)
  /-- R290 -/
  | checkAccess (kind : BitVec 6) (data : Word)
  /-- R300 -/
  | getPmpaddr (idx : BitVec 12)
  /-- R301 -/
  | setPmpaddr (idx : BitVec 12) (data : Word)
  /-- R302 -/
  | setPmpcfg (idx : BitVec 12) (data : Word)
  /-- R330 -/
  | decode (data : Word)
  deriving DecidableEq, Repr

/-- The complete set of CSRs of the block, by name (R30). `pmpcfg n` ranges over n = 0..15 and `pmpaddr i` over
i = 0..63; which of all of these exist is a matter of the configuration. -/
inductive Csr where
  | fflags | frm | fcsr
  | vstart | vxsat | vxrm | vcsr
  | sstatus | sie | stvec | scounteren | sscratch | sepc | scause | stval | sip
  | mstatus | misa | medeleg | mideleg | mie | mtvec | mcounteren
  | mscratch | mepc | mcause | mtval | mip
  | pmpcfg (n : Fin 16)
  | pmpaddr (i : Fin 64)
  | mcycle | minstret | cycle | instret
  | vl | vtype | vlenb
  | mvendorid | marchid | mimpid | mhartid
  deriving DecidableEq, Repr

end Sys2Proof
end

