-- ==== Sys2Proof/Machine/Operands.lean ====
section
/-!
DEFINITION. Every operand form of the command port: register indices, privilege levels, exception codes, access kinds,
host selects, instruction words and CSR numbers (spec 30_encoding.md R135-R141; 10_state.md R30), and the bit-field
helpers every later file uses (00_scope.md R8). An operand outside its domain has no value here (`none`); the meanings
answer it with BAD_OPERAND.
-/

namespace Sys2Proof

/-! ### Bit fields (R8) -/

/-- `v` with the `w` bits from bit `lo` up replaced by `x`. -/
def setField (v : Word) (lo : Nat) {w : Nat} (x : BitVec w) : Word :=
  (v &&& ~~~((BitVec.allOnes w).setWidth 64 <<< lo)) ||| (x.setWidth 64 <<< lo)

/-- `old` with the bits of `mask` taken from `new`. -/
def maskedWrite (old new mask : Word) : Word :=
  (old &&& ~~~mask) ||| (new &&& mask)

/-- `b ? v : 0`. -/
def onlyIf (b : Bool) (v : Word) : Word :=
  if b then v else 0

/-! ### Privilege levels (R10) -/

/-- The 2-bit encoding of a level: U = 0, S = 1, M = 3. -/
def Priv.enc : Priv → BitVec 2
  | .U => 0
  | .S => 1
  | .M => 3

/-- `enc(a) < enc(b)` as unsigned numbers: the order U < S < M. -/
def Priv.below (a b : Priv) : Bool :=
  a.enc.toNat < b.enc.toNat

/-! ### Operand domains (R135) -/

/-- The register index of READ_GPR, WRITE_GPR, READ_FPR, WRITE_FPR, READ_VR and WRITE_VR: 0..31. -/
def regIndex (idx : BitVec 12) : Option RegIndex :=
  if h : idx.toNat < 32 then some ⟨idx.toNat, h⟩ else none

/-- The register selected by READ_HOST and WRITE_HOST: 0 tohost, 1 fromhost. -/
def hostSelect (idx : BitVec 12) : Option HostReg :=
  match idx.toNat with
  | 0 => some .tohost
  | 1 => some .fromhost
  | _ => none

/-- The level named by SET_PRIV: 0 U, 1 S, 3 M. -/
def levelOf (idx : BitVec 12) : Option Priv :=
  match idx.toNat with
  | 0 => some .U
  | 1 => some .S
  | 3 => some .M
  | _ => none

/-- The exception code of INJECT_EXCEPTION: 0..15 (R138). -/
def excCode (kind : BitVec 6) : Option ExcCode :=
  if h : kind.toNat < 16 then some ⟨kind.toNat, h⟩ else none

/-- The access kind of CHECK_ACCESS: 0 Read, 1 Write, 2 Execute (R139). -/
def accessKindOf (kind : BitVec 6) : Option AccessKind :=
  match kind.toNat with
  | 0 => some .read
  | 1 => some .write
  | 2 => some .exec
  | _ => none

/-- The instruction word of DECODE: `data[31:0]`, where `data[63:32] = 0`. -/
def instrWord (data : Word) : Option (BitVec 32) :=
  if data.toNat < 2 ^ 32 then some (data.setWidth 32) else none

/-! ### CSR numbers (R30, R137) -/

/-- The number of a CSR. -/
def Csr.number : Csr → BitVec 12
  | .fflags => 0x001
  | .frm => 0x002
  | .fcsr => 0x003
  | .vstart => 0x008
  | .vxsat => 0x009
  | .vxrm => 0x00A
  | .vcsr => 0x00F
  | .sstatus => 0x100
  | .sie => 0x104
  | .stvec => 0x105
  | .scounteren => 0x106
  | .sscratch => 0x140
  | .sepc => 0x141
  | .scause => 0x142
  | .stval => 0x143
  | .sip => 0x144
  | .mstatus => 0x300
  | .misa => 0x301
  | .medeleg => 0x302
  | .mideleg => 0x303
  | .mie => 0x304
  | .mtvec => 0x305
  | .mcounteren => 0x306
  | .mscratch => 0x340
  | .mepc => 0x341
  | .mcause => 0x342
  | .mtval => 0x343
  | .mip => 0x344
  | .pmpcfg n => BitVec.ofNat 12 (0x3A0 + n.val)
  | .pmpaddr i => BitVec.ofNat 12 (0x3B0 + i.val)
  | .mcycle => 0xB00
  | .minstret => 0xB02
  | .cycle => 0xC00
  | .instret => 0xC02
  | .vl => 0xC20
  | .vtype => 0xC21
  | .vlenb => 0xC22
  | .mvendorid => 0xF11
  | .marchid => 0xF12
  | .mimpid => 0xF13
  | .mhartid => 0xF14

/-- The CSRs that are neither a `pmpcfg` nor a `pmpaddr`: the user and supervisor ones. -/
def lowCsrs : List Csr :=
  [.fflags, .frm, .fcsr, .vstart, .vxsat, .vxrm, .vcsr,
   .sstatus, .sie, .stvec, .scounteren, .sscratch, .sepc, .scause, .stval, .sip]

/-- The machine-level CSRs outside the PMP. -/
def machineCsrs : List Csr :=
  [.mstatus, .misa, .medeleg, .mideleg, .mie, .mtvec, .mcounteren,
   .mscratch, .mepc, .mcause, .mtval, .mip, .mcycle, .minstret]

/-- The CSRs of the read-only space. -/
def readOnlyCsrs : List Csr :=
  [.cycle, .instret, .vl, .vtype, .vlenb, .mvendorid, .marchid, .mimpid, .mhartid]

/-- The CSR a 12-bit number names, if it names one under some configuration (R30). -/
def csrOfNumber (id : BitVec 12) : Option Csr :=
  if h : 0x3A0 ≤ id.toNat ∧ id.toNat < 0x3B0 then
    some (.pmpcfg ⟨id.toNat - 0x3A0, by omega⟩)
  else if h : 0x3B0 ≤ id.toNat ∧ id.toNat < 0x3F0 then
    some (.pmpaddr ⟨id.toNat - 0x3B0, by omega⟩)
  else
    (lowCsrs ++ machineCsrs ++ readOnlyCsrs).find? fun c => c.number == id

/-- Whether a CSR of R30's table exists under a configuration (its "exists when" column). -/
def Csr.existsIn (cfg : Config) : Csr → Bool
  | .fflags | .frm | .fcsr => cfg.hasF
  | .vstart | .vxsat | .vxrm | .vcsr => cfg.hasV
  | .sstatus | .sie | .stvec | .scounteren | .sscratch | .sepc | .scause | .stval | .sip => cfg.hasS
  | .mstatus | .misa => true
  | .medeleg | .mideleg => cfg.hasS
  | .mie | .mtvec => true
  | .mcounteren => cfg.hasU
  | .mscratch | .mepc | .mcause | .mtval | .mip => true
  | .pmpcfg n => n.val % 2 == 0 && decide (4 * n.val < cfg.pmpCount.toNat)
  | .pmpaddr i => decide (i.val < cfg.pmpCount.toNat)
  | .mcycle | .minstret | .cycle | .instret => true
  | .vl | .vtype | .vlenb => cfg.hasV
  | .mvendorid | .marchid | .mimpid | .mhartid => true

/-- `exists(id)` of R30. -/
def csrExists (cfg : Config) (id : BitVec 12) : Bool :=
  match csrOfNumber id with
  | none => false
  | some c => c.existsIn cfg

/-- `id[11:10] = 0b11`: the read-only space (R137). -/
def csrReadOnlySpace (id : BitVec 12) : Bool :=
  id.extractLsb' 10 2 == 0b11#2

/-- `id[9:8]`: the lowest privilege that may access the CSR (R137). -/
def csrMinPriv (id : BitVec 12) : BitVec 2 :=
  id.extractLsb' 8 2

/-- `defined(id)` of R203: the CSR exists and the current level may see it. -/
def csrDefined (cfg : Config) (p : Priv) (id : BitVec 12) : Bool :=
  csrExists cfg id && decide ((csrMinPriv id).toNat ≤ p.enc.toNat)

/-! ### Register handles (R140, R141)

A handle is resolved before a command is issued; the port carries only the index. -/

/-- The ABI names of the integer registers, in index order (R140). -/
def abiNames : List (List String) :=
  [["zero", "x0"], ["ra", "x1"], ["sp", "x2"], ["gp", "x3"], ["tp", "x4"], ["t0", "x5"], ["t1", "x6"], ["t2", "x7"],
   ["s0", "fp", "x8"], ["s1", "x9"], ["a0", "x10"], ["a1", "x11"], ["a2", "x12"], ["a3", "x13"], ["a4", "x14"],
   ["a5", "x15"], ["a6", "x16"], ["a7", "x17"], ["s2", "x18"], ["s3", "x19"], ["s4", "x20"], ["s5", "x21"],
   ["s6", "x22"], ["s7", "x23"], ["s8", "x24"], ["s9", "x25"], ["s10", "x26"], ["s11", "x27"], ["t3", "x28"],
   ["t4", "x29"], ["t5", "x30"], ["t6", "x31"]]

/-- A register handle: a name or a number (R24). -/
inductive Handle where
  | name (n : String)
  | number (n : Nat)
  deriving DecidableEq, Repr

/-- `resolve(handle)` of R141: the index 0..31 a valid handle names, `none` for an invalid handle. -/
def resolveHandle : Handle → Option RegIndex
  | .name n =>
    let k := abiNames.findIdx fun names => names.contains n
    if h : k < 32 then some ⟨k, h⟩ else none
  | .number k => if h : k < 32 then some ⟨k, h⟩ else none

end Sys2Proof
end

