-- ==== Sys2Proof/WellFormed.lean ====
section
/-!
DEFINITION. Well-formed commands: those whose operands are in the domains of spec 30_encoding.md R135. A command that
is not well formed is still a command of the port; its meaning answers BAD_OPERAND.
-/

namespace Sys2Proof

/-- Every operand of the command is in its domain (R135). The PMP register commands and the CSR commands take any
12-bit `idx`; the commands without a row in R135 have no domain to leave. -/
def Instr.wellFormed : Instr → Bool
  | .reset => true
  | .readGpr idx => (regIndex idx).isSome
  | .writeGpr idx _ => (regIndex idx).isSome
  | .readFpr idx => (regIndex idx).isSome
  | .writeFpr idx _ => (regIndex idx).isSome
  | .readVr idx => (regIndex idx).isSome
  | .writeVr idx _ => (regIndex idx).isSome
  | .readPc => true
  | .writePc _ => true
  | .readNextPc => true
  | .writeNextPc _ => true
  | .readHost idx => (hostSelect idx).isSome
  | .writeHost idx _ => (hostSelect idx).isSome
  | .readCsr _ => true
  | .writeCsr _ _ => true
  | .isCsrDefined _ => true
  | .setVconfig _ _ => true
  | .setMipPlatform _ => true
  | .getPriv => true
  | .setPriv idx => (levelOf idx).isSome
  | .injectException kind _ => (excCode kind).isSome
  | .checkAccess kind _ => (accessKindOf kind).isSome
  | .getPmpaddr _ => true
  | .setPmpaddr _ _ => true
  | .setPmpcfg _ _ => true
  | .decode data => (instrWord data).isSome

end Sys2Proof
end

