-- ==== Sys2Proof/Decode.lean ====
section
/-!
DEFINITION. The decoder and the encoder of the command port (spec 30_encoding.md R131, R133, R142, R147): from a request
to the command it selects, or the name of its rejection, and back; and the packed request word the host numbers bits in.
-/

namespace Sys2Proof

/-- Why the decoder refuses a request. -/
inductive DecodeReject where
  /-- the op code is reserved (R142); `step` answers it with BAD_OP -/
  | reservedOp (op : BitVec 8)
  deriving DecidableEq, Repr

/-- The command a request selects (R133): only `op` selects it (R147), and only the fields its rule names are kept
(R131). -/
def decode (r : Request) : Except DecodeReject Instr :=
  match r.op.toNat with
  | 0x01 => .ok .reset
  | 0x02 => .ok (.readGpr r.idx)
  | 0x03 => .ok (.writeGpr r.idx r.data)
  | 0x04 => .ok (.readFpr r.idx)
  | 0x05 => .ok (.writeFpr r.idx r.data)
  | 0x06 => .ok (.readVr r.idx)
  | 0x07 => .ok (.writeVr r.idx r.vdata)
  | 0x08 => .ok .readPc
  | 0x09 => .ok (.writePc r.data)
  | 0x0A => .ok .readNextPc
  | 0x0B => .ok (.writeNextPc r.data)
  | 0x0C => .ok (.readHost r.idx)
  | 0x0D => .ok (.writeHost r.idx r.data)
  | 0x10 => .ok (.readCsr r.idx)
  | 0x11 => .ok (.writeCsr r.idx r.data)
  | 0x12 => .ok (.isCsrDefined r.idx)
  | 0x13 => .ok (.setVconfig r.data r.data2)
  | 0x14 => .ok (.setMipPlatform r.data)
  | 0x20 => .ok .getPriv
  | 0x21 => .ok (.setPriv r.idx)
  | 0x22 => .ok (.injectException r.kind r.data)
  | 0x30 => .ok (.checkAccess r.kind r.data)
  | 0x31 => .ok (.getPmpaddr r.idx)
  | 0x32 => .ok (.setPmpaddr r.idx r.data)
  | 0x33 => .ok (.setPmpcfg r.idx r.data)
  | 0x40 => .ok (.decode r.data)
  | _ => .error (.reservedOp r.op)

/-- The request of an op code with every other field 0. -/
def bareRequest (op : BitVec 8) : Request where
  op := op
  idx := 0
  kind := 0
  data := 0
  data2 := 0
  vdata := 0

/-- The request that issues a command (R133, R145's "fields set" column); fields its rule does not name are 0. -/
def encode : Instr → Request
  | .reset => bareRequest 0x01
  | .readGpr idx => { bareRequest 0x02 with idx := idx }
  | .writeGpr idx data => { bareRequest 0x03 with idx := idx, data := data }
  | .readFpr idx => { bareRequest 0x04 with idx := idx }
  | .writeFpr idx data => { bareRequest 0x05 with idx := idx, data := data }
  | .readVr idx => { bareRequest 0x06 with idx := idx }
  | .writeVr idx vdata => { bareRequest 0x07 with idx := idx, vdata := vdata }
  | .readPc => bareRequest 0x08
  | .writePc data => { bareRequest 0x09 with data := data }
  | .readNextPc => bareRequest 0x0A
  | .writeNextPc data => { bareRequest 0x0B with data := data }
  | .readHost idx => { bareRequest 0x0C with idx := idx }
  | .writeHost idx data => { bareRequest 0x0D with idx := idx, data := data }
  | .readCsr idx => { bareRequest 0x10 with idx := idx }
  | .writeCsr idx data => { bareRequest 0x11 with idx := idx, data := data }
  | .isCsrDefined idx => { bareRequest 0x12 with idx := idx }
  | .setVconfig data data2 => { bareRequest 0x13 with data := data, data2 := data2 }
  | .setMipPlatform data => { bareRequest 0x14 with data := data }
  | .getPriv => bareRequest 0x20
  | .setPriv idx => { bareRequest 0x21 with idx := idx }
  | .injectException kind data => { bareRequest 0x22 with kind := kind, data := data }
  | .checkAccess kind data => { bareRequest 0x30 with kind := kind, data := data }
  | .getPmpaddr idx => { bareRequest 0x31 with idx := idx }
  | .setPmpaddr idx data => { bareRequest 0x32 with idx := idx, data := data }
  | .setPmpcfg idx data => { bareRequest 0x33 with idx := idx, data := data }
  | .decode data => { bareRequest 0x40 with data := data }

/-! ### The packed request word

R131 gives the fields and their widths, R147 puts `op` at bits 7:0, and nothing places the other fields in a word. The
model packs them in R131's order with no gaps: `op` 7:0, `idx` 19:8, `kind` 25:20, `data` 89:26, `data2` 153:90, `vdata`
from bit 154 up (notes/assumptions/4.md, DESIGN CHOICE). Only the host's two queries and the encoding statements use it;
`step` reads the fields. -/

/-- The fields of a packed request word. -/
def requestOfWord (w : Nat) : Request where
  op := BitVec.ofNat 8 w
  idx := BitVec.ofNat 12 (w >>> 8)
  kind := BitVec.ofNat 6 (w >>> 20)
  data := BitVec.ofNat 64 (w >>> 26)
  data2 := BitVec.ofNat 64 (w >>> 90)
  vdata := w >>> 154

/-- The packed word of a request. -/
def wordOfRequest (r : Request) : Nat :=
  r.op.toNat + r.idx.toNat <<< 8 + r.kind.toNat <<< 20 + r.data.toNat <<< 26 + r.data2.toNat <<< 90 + r.vdata <<< 154

/-- The decoder on packed words: total on every number. -/
def decodeWord (w : Nat) : Except DecodeReject Instr :=
  decode (requestOfWord w)

/-- The encoder into packed words. -/
def encodeWord (i : Instr) : Nat :=
  wordOfRequest (encode i)

/-- The request whose low `nbits` bits are `w` and whose other bits are 0. -/
def requestOfTableWord (nbits w : Nat) : Request :=
  requestOfWord (w % 2 ^ nbits)

/-- What the decoder reads from a request whose bits are `w` in the op-code table's numbering, every bit from `nbits` up
being 0. -/
def decodeTableWord (nbits w : Nat) : Option Instr :=
  match decode (requestOfTableWord nbits w) with
  | .ok i => some i
  | .error _ => none

end Sys2Proof
end

