-- ==== Sys2Proof/Machine/State.lean ====
section
/-!
DEFINITION. The state of the block as plain data: the hart's state record (spec 10_state.md R20, R31), the configuration
it was built with (00_scope.md R5), the two ports (30_encoding.md R130-R132, R134), the reasons a step can stop, and the
state after reset (44_decode_lifecycle.md R331, 70_reset_and_hazards.md R430).
-/

namespace Sys2Proof.Machine

/-- The storage of the CSR file (R31), under the spec's names. Views and constants have no storage. -/
structure Csrs where
  mstatus : Word
  medeleg : Word
  mideleg : Word
  mie : Word
  mip : Word
  mtvec : Word
  stvec : Word
  mcounteren : Word
  scounteren : Word
  mscratch : Word
  sscratch : Word
  mepc : Word
  sepc : Word
  mcause : Word
  scause : Word
  mtval : Word
  stval : Word
  mcycle : Word
  minstret : Word
  /-- frm in bits 7:5, fflags in bits 4:0 (R49) -/
  fcsr : BitVec 8
  /-- an element index below VLEN (R50) -/
  vstart : BitVec 16
  vxsat : BitVec 1
  vxrm : BitVec 2
  vl : Word
  vtype : Word
  deriving DecidableEq, Repr

/-- The state record of one hart (R20). `x` holds x1..x31, at positions 0..30: x0 has no storage (R25).
`v` holds 32 values below `2^VLEN`. The PMP table has room for 64 entries; entry i is state of the block exactly when
`i < PMP_COUNT`, and no command reaches the others (notes/assumptions/10.md, DESIGN CHOICE). -/
structure Hart where
  pc : Word
  nextPC : Word
  x : Vector Word 31
  f : Vector Word 32
  v : Vector VReg 32
  priv : Priv
  csr : Csrs
  pmpcfg : Vector (BitVec 8) 64
  pmpaddr : Vector (BitVec 54) 64
  tohost : Word
  fromhost : Word
  fatal : Bool
  deriving DecidableEq, Repr

/-- The status of a response (R134). -/
inductive Status where
  | ok
  | csrUndefined
  | csrReadOnly
  | fatal
  | badOp
  | badOperand
  deriving DecidableEq, Repr

/-- One response on the response port (R132). -/
structure Response where
  status : Status
  rdata : Word
  rvdata : VReg
  roper : Operation
  deriving DecidableEq, Repr

/-- The state of the machine.
`hart` is the spec's state record. `cfg` is the configuration: no state of the spec's (R21), carried here so that the
step takes it as an argument (R5; notes/assumptions/1.md). `requests` are the requests the holder of the block has
issued and the block has not yet performed, oldest first (R109, R130; notes/assumptions/2.md). `response` is what stands
on the response port: the answer to the command performed last, none before the first one (notes/assumptions/3.md).
`freeIndex` is the model's own: the number of the next free value of `roper` (notes/assumptions/7.md). -/
structure State where
  cfg : Config
  hart : Hart
  requests : List Request
  response : Option Response
  freeIndex : Nat
  deriving DecidableEq, Repr

/-- The reasons a step can stop with a fault: none. Every command of the block answers with a response, from every
state (R12 "every operation above runs to completion", R134, R333 for the fatal state), so this type has no constructor;
nothing raises a fault, and there is nothing in it to be safe or unsafe about (notes/assumptions/16.md). -/
inductive Fault where
  deriving DecidableEq, Repr

/-- The reasons a step can be refused. -/
inductive Refusal where
  /-- `exec` has no meaning yet for the command. Raised by no arm of this model: every command has its meaning. It would
  be safe: a refusal claims nothing of the command. -/
  | notModelled (mnemonic : String)
  deriving DecidableEq, Repr

/-- The CSR storage of a newly built hart: all of it 0 (R31). -/
def Csrs.zero : Csrs where
  mstatus := 0
  medeleg := 0
  mideleg := 0
  mie := 0
  mip := 0
  mtvec := 0
  stvec := 0
  mcounteren := 0
  scounteren := 0
  mscratch := 0
  sscratch := 0
  mepc := 0
  sepc := 0
  mcause := 0
  scause := 0
  mtval := 0
  stval := 0
  mcycle := 0
  minstret := 0
  fcsr := 0
  vstart := 0
  vxsat := 0
  vxrm := 0
  vl := 0
  vtype := 0

/-- A newly built hart (R331, R430): every register, CSR and PMP entry 0, level Machine, not fatal. -/
def Hart.constructed : Hart where
  pc := 0
  nextPC := 0
  x := Vector.replicate 31 0
  f := Vector.replicate 32 0
  v := Vector.replicate 32 0
  priv := .M
  csr := Csrs.zero
  pmpcfg := Vector.replicate 64 0
  pmpaddr := Vector.replicate 64 0
  tohost := 0
  fromhost := 0
  fatal := false

/-- A newly built block of configuration `cfg`: nothing requested, nothing answered (R331 `construct(config)`). -/
def State.construct (cfg : Config) : State where
  cfg := cfg
  hart := Hart.constructed
  requests := []
  response := none
  freeIndex := 0

/-- The machine right after reset, built with the spec's test configuration TESTCFG (92_eei_decisions.md D54;
notes/assumptions/1.md). -/
def State.reset : State :=
  State.construct testcfg

end Sys2Proof.Machine
end

