-- ==== Sys2Proof/Machine/Flags.lean ====
section
/-!
DEFINITION. The fields of the status and flag registers: the block has no condition codes (spec 10_state.md R58), so its
flags are the accrued FP flags and rounding mode of `fcsr` (R49), the vector saturation flag and rounding mode (R50), and
the interrupt-enable, privilege and SD fields of `mstatus` (R32-R34).
-/

namespace Sys2Proof.Machine

/-! ### FP and vector flags -/

/-- `fcsr[4:0]`: the accrued exception flags NV DZ OF UF NX (R49). -/
def fflagsOf (fcsr : BitVec 8) : BitVec 5 :=
  fcsr.extractLsb' 0 5

/-- `fcsr[7:5]`: the rounding mode (R49). -/
def frmOf (fcsr : BitVec 8) : BitVec 3 :=
  fcsr.extractLsb' 5 3

/-- `frm ++ fflags`. -/
def fcsrOf (frm : BitVec 3) (fflags : BitVec 5) : BitVec 8 :=
  frm ++ fflags

/-- The view `vcsr`: `vxrm` in bits 2:1 and `vxsat` in bit 0 (R50). -/
def vcsrView (vxrm : BitVec 2) (vxsat : BitVec 1) : Word :=
  (vxrm ++ vxsat : BitVec 3).setWidth 64

/-! ### `mstatus` (R32, R33) -/

/-- `MSTATUS_RW` of R33: the bits of `csr.mstatus` that are RW or WARL under a configuration. -/
def mstatusRw (cfg : Config) : Word :=
  onlyIf cfg.hasS 0x5C0122#64 ||| 0x1888#64 ||| onlyIf cfg.hasU 0x220000#64 |||
    onlyIf cfg.hasV 0x600#64 ||| onlyIf cfg.hasF 0x6000#64

/-- Bits 12:11, MPP. -/
def mppOf (s : Word) : BitVec 2 :=
  s.extractLsb' 11 2

/-- SD: FS = 3 or VS = 3 (XS is read-only 0). -/
def sdOf (s : Word) : Bool :=
  s.extractLsb' 13 2 == 3#2 || s.extractLsb' 9 2 == 3#2

/-- The value a read of `mstatus` returns (R33). -/
def mstatusRead (cfg : Config) (s : Word) : Word :=
  let r := s &&& mstatusRw cfg
  let r := if cfg.hasU then r else setField r 11 0b11#2
  let r := setField r 32 (if cfg.hasU then 0b10#2 else 0b00#2)
  let r := setField r 34 (if cfg.hasS then 0b10#2 else 0b00#2)
  setField r 63 (BitVec.ofBool (sdOf r))

/-- `legal(p)` of R207: the levels MPP may be written to. -/
def mppLegal (cfg : Config) (p : BitVec 2) : Bool :=
  p == 3#2 || (p == 1#2 && cfg.hasS) || (p == 0#2 && cfg.hasU)

/-- The storage of `mstatus` after a write of `v` (R207). -/
def mstatusWrite (cfg : Config) (s v : Word) : Word :=
  setField (maskedWrite s v (mstatusRw cfg)) 11 (if mppLegal cfg (mppOf v) then mppOf v else mppOf s)

/-- `SSTATUS_MASK` of R34: the bits of `mstatus` a read of `sstatus` shows. -/
def sstatusMask : Word :=
  0x80000003000DE762#64

/-- `SSTATUS_WMASK` of R34: the bits of `mstatus` a write of `sstatus` may change. -/
def sstatusWmask : Word :=
  0xC6722#64

/-- The storage of `mstatus` after a write of `v` to `sstatus` (R208). -/
def sstatusWrite (cfg : Config) (s v : Word) : Word :=
  maskedWrite s v (sstatusWmask &&& mstatusRw cfg)

/-- The `mstatus` updates of a trap taken to M from `cur` (R263): MPIE ← MIE, MIE ← 0, MPP ← enc(cur). -/
def mstatusTrapM (s : Word) (cur : Priv) : Word :=
  setField (setField (setField s 7 (s.extractLsb' 3 1)) 3 0#1) 11 cur.enc

/-- SPP as a trap to S from `cur` saves it (R263): 0 from U, else 1. -/
def sppOf : Priv → BitVec 1
  | .U => 0
  | .S => 1
  | .M => 1

/-- The `mstatus` updates of a trap taken to S from `cur` (R263): SPIE ← SIE, SIE ← 0, SPP ← (cur = U ? 0 : 1). -/
def mstatusTrapS (s : Word) (cur : Priv) : Word :=
  setField (setField (setField s 5 (s.extractLsb' 1 1)) 1 0#1) 8 (sppOf cur)

/-! ### Interrupt masks (R35-R39) -/

/-- The M-level interrupt bits MSIP, MTIP, MEIP: 3, 7, 11. -/
def mInterruptMask : Word :=
  0x888#64

/-- The S-level interrupt bits SSIP, STIP, SEIP: 1, 5, 9. -/
def sInterruptMask : Word :=
  0x222#64

/-- `MIE_WMASK` (R37). -/
def mieWmask (cfg : Config) : Word :=
  mInterruptMask ||| onlyIf cfg.hasS sInterruptMask

/-- `MIP_WMASK` (R38). -/
def mipWmask (cfg : Config) : Word :=
  onlyIf cfg.hasS sInterruptMask

/-- `MEDELEG_WMASK` (R35): bits 0-9, 12, 13 and 15. -/
def medelegWmask : Word :=
  0xB3FF#64

/-- `MIDELEG_WMASK` (R36). -/
def midelegWmask : Word :=
  0x222#64

end Sys2Proof.Machine
end

