-- ==== Sys2Proof/Machine/Ops.lean ====
section
/-!
DEFINITION. The shared operations of the block: answering on the response port and the order of checks (spec
30_encoding.md R132, R134, R136), the register files (10_state.md R25-R28), the PMP table (43_pmp.md R297-R299),
trap entry with delegation (42_privilege_trap.md R262-R264), and taking the next request (30_encoding.md R130).
The block has no memory (20_memory.md R100), so there are no memory operations; it has no return from a trap either
(60_exceptions.md R390): that is an engine sequence, in Machine/Engine.lean.
-/

namespace Sys2Proof.Machine

/-! ### The response port -/

/-- The 3-bit code of a status (R134). -/
def Status.code : Status → BitVec 3
  | .ok => 0
  | .csrUndefined => 1
  | .csrReadOnly => 2
  | .fatal => 3
  | .badOp => 4
  | .badOperand => 5

/-- The block in state `s` answers: `roper` is a free value, as R132 leaves it unspecified for every answer but a
DECODE result, and the state's count of free values advances. -/
def State.answerWith (s : State) (status : Status) (rdata : Word) (rvdata : VReg) : State :=
  { s with
    response := some { status := status, rdata := rdata, rvdata := rvdata, roper := Config.freeOper s.freeIndex }
    freeIndex := s.freeIndex + 1 }

/-- `return (status, rdata)`, with `rvdata = 0`. -/
def State.answer (s : State) (status : Status) (rdata : Word) : State :=
  s.answerWith status rdata 0

/-- `return (OK, 0)` with the DECODE result on `roper`. -/
def State.answerOper (s : State) (op : Operation) : State :=
  { s with response := some { status := .ok, rdata := 0, rvdata := 0, roper := op } }

/-- The state with its hart record replaced. -/
def State.setHart (s : State) (h : Hart) : State :=
  { s with hart := h }

/-- A command leaves the hart as it is and returns `(status, rdata)`. -/
def reply (s : State) (status : Status) (rdata : Word) : Host.Outcome State Fault Refusal :=
  .next (s.answer status rdata)

/-- A command leaves the hart as `h` and returns `(status, rdata)`. -/
def commit (s : State) (h : Hart) (status : Status) (rdata : Word) : Host.Outcome State Fault Refusal :=
  .next ((s.setHart h).answer status rdata)

/-- The order of checks of R136, for a command whose op code is not reserved: the fatal state first, then the
operand's domain (`none` is out of domain), then the command's own rule. RESET is not judged by it. -/
def guarded {α : Type} (s : State) (operand : Option α) (body : α → Host.Outcome State Fault Refusal) :
    Host.Outcome State Fault Refusal :=
  if s.hart.fatal then reply s .fatal 0
  else
    match operand with
    | none => reply s .badOperand 0
    | some a => body a

/-- R136 for a command without an operand domain. -/
def checked (s : State) (body : Host.Outcome State Fault Refusal) : Host.Outcome State Fault Refusal :=
  guarded s (some ()) fun _ => body

/-- R136 for a request the decoder rejects (R142, R332): FATAL in the fatal state, else BAD_OP, and no change. -/
def answerReject (_ : DecodeReject) (s : State) : Host.Outcome State Fault Refusal :=
  if s.hart.fatal then reply s .fatal 0 else reply s .badOp 0

/-- Taking the oldest pending request off the request port (R130). -/
def takeRequest (s : State) : Option (Request × State) :=
  match s.requests with
  | [] => none
  | r :: rest => some (r, { s with requests := rest })

/-- No request stands on the port: the block is idle, and every state survives (R405). -/
def idle (s : State) : Host.Outcome State Fault Refusal :=
  .next s

/-! ### Register files -/

/-- `x[i]`: index 0 reads as zero (R25, R170). -/
def Hart.readX (h : Hart) (i : RegIndex) : Word :=
  if _ : i.val = 0 then 0 else h.x[i.val - 1]

/-- `x[i] ← v`: a write of index 0 is discarded (R25, R171). -/
def Hart.writeX (h : Hart) (i : RegIndex) (v : Word) : Hart :=
  if _ : i.val = 0 then h else { h with x := h.x.set (i.val - 1) v }

/-- `f[i]` (R27). -/
def Hart.readF (h : Hart) (i : RegIndex) : Word :=
  h.f[i]

/-- `f[i] ← v` (R27). -/
def Hart.writeF (h : Hart) (i : RegIndex) (v : Word) : Hart :=
  { h with f := h.f.set i v }

/-- `v[i]` (R28). -/
def Hart.readV (h : Hart) (i : RegIndex) : VReg :=
  h.v[i]

/-- `v[i] ← value`: the register takes the VLEN bits of the port's `vdata` field (R28, R131). -/
def Hart.writeV (cfg : Config) (h : Hart) (i : RegIndex) (value : VReg) : Hart :=
  { h with v := h.v.set i (value % 2 ^ cfg.vlen) }

/-- `tohost` or `fromhost` (R55). -/
def Hart.readHost (h : Hart) : HostReg → Word
  | .tohost => h.tohost
  | .fromhost => h.fromhost

/-- A write of `tohost` or `fromhost` (R55). -/
def Hart.writeHost (h : Hart) (r : HostReg) (v : Word) : Hart :=
  match r with
  | .tohost => { h with tohost := v }
  | .fromhost => { h with fromhost := v }

/-! ### The PMP table (R52-R54, R297-R299) -/

/-- The configuration byte `pmpcfg_s[i]`; positions past the table's 64 read 0 and are never asked for. -/
def Hart.cfgByte (h : Hart) (i : Nat) : BitVec 8 :=
  h.pmpcfg[i]?.getD 0

/-- The address field `pmpaddr_s[i]`. -/
def Hart.addrField (h : Hart) (i : Nat) : BitVec 54 :=
  h.pmpaddr[i]?.getD 0

/-- R, W, X and L of a configuration byte: bits 0, 1, 2 and 7 (R52). -/
def cfgR (b : BitVec 8) : Bool := b.getLsbD 0
/-- bit 1, W -/
def cfgW (b : BitVec 8) : Bool := b.getLsbD 1
/-- bit 2, X -/
def cfgX (b : BitVec 8) : Bool := b.getLsbD 2
/-- bit 7, L -/
def cfgL (b : BitVec 8) : Bool := b.getLsbD 7
/-- bits 4:3, the address-matching mode A -/
def cfgA (b : BitVec 8) : BitVec 2 := b.extractLsb' 3 2

/-- `pmpWriteCfg` of R297: a locked byte ignores the write; bits 6:5 read 0; W = 1 with R = 0 clears R, W and X. -/
def pmpWriteCfg (old b : BitVec 8) : BitVec 8 :=
  if cfgL old then old
  else
    let n := b &&& 0x9F#8
    if cfgW n && !cfgR n then n &&& 0xF8#8 else n

/-- Entry i is locked (R298). -/
def Hart.pmpLocked (h : Hart) (i : Nat) : Bool :=
  cfgL (h.cfgByte i)

/-- The entry above i exists and is a locked TOR entry, which protects the address of entry i (R298). -/
def Hart.pmpTorLocked (cfg : Config) (h : Hart) (i : Nat) : Bool :=
  decide (i + 1 < cfg.pmpCount.toNat) && cfgL (h.cfgByte (i + 1)) && cfgA (h.cfgByte (i + 1)) == 1#2

/-- A software write of `v` to `pmpaddr i` (R298). -/
def Hart.writePmpaddr (cfg : Config) (h : Hart) (i : Nat) (v : Word) : Hart :=
  if h.pmpLocked i || h.pmpTorLocked cfg i then h
  else { h with pmpaddr := h.pmpaddr.setIfInBounds i (v.setWidth 54) }

/-- The write of one configuration byte of entry i (R297). -/
def Hart.writeCfgByte (h : Hart) (i : Nat) (b : BitVec 8) : Hart :=
  { h with pmpcfg := h.pmpcfg.setIfInBounds i (pmpWriteCfg (h.cfgByte i) b) }

/-- A software write of `v` to `pmpcfg n`: its eight bytes, each on its own (R299). Byte k goes to entry 4n + k. -/
def Hart.writePmpcfg (h : Hart) (n : Nat) (v : Word) : Hart :=
  (List.range 8).foldl (fun h k => h.writeCfgByte (4 * n + k) (v.extractLsb' (8 * k) 8)) h

/-- A read of `pmpcfg n`: `pmpcfg_s[4n+7] ++ … ++ pmpcfg_s[4n]` (R54). -/
def Hart.readPmpcfg (h : Hart) (n : Nat) : Word :=
  h.cfgByte (4 * n + 7) ++ h.cfgByte (4 * n + 6) ++ h.cfgByte (4 * n + 5) ++ h.cfgByte (4 * n + 4) ++
    h.cfgByte (4 * n + 3) ++ h.cfgByte (4 * n + 2) ++ h.cfgByte (4 * n + 1) ++ h.cfgByte (4 * n)

/-- A read of `pmpaddr i`: the 54 stored bits, zero-extended (R53). -/
def Hart.readPmpaddr (h : Hart) (i : Nat) : Word :=
  (h.addrField i).setWidth 64

/-! ### Trap entry (R262-R264) -/

/-- `delegatee(c, cur)` of R262: the level that takes exception `c` raised at `cur`. -/
def delegatee (cfg : Config) (medeleg : Word) (c : ExcCode) (cur : Priv) : Priv :=
  let d := if cfg.hasS && medeleg.getLsbD c.val then Priv.S else Priv.M
  if d.below cur then cur else d

/-- `trapVector(t)` of R264: BASE of `mtvec` or `stvec`, in both vector modes. -/
def trapVector (csr : Csrs) (t : Priv) : Word :=
  (if t = .M then csr.mtvec else csr.stvec) &&& 0xFFFFFFFFFFFFFFFC#64

/-- The CSR updates of trap entry at level `t` (R263, step 3). -/
def trapCsrs (csr : Csrs) (t cur : Priv) (c : ExcCode) (pc tval : Word) : Csrs :=
  if t = .M then
    { csr with
      mepc := pc, mcause := BitVec.ofNat 64 c.val, mtval := tval, mstatus := mstatusTrapM csr.mstatus cur }
  else
    { csr with
      sepc := pc, scause := BitVec.ofNat 64 c.val, stval := tval, mstatus := mstatusTrapS csr.mstatus cur }

/-- TAKING AN EXCEPTION (R263): the one operation that enters a trap for code `c` with trap value `tval`. Every
right-hand side is read from the state before. `pc` itself does not change: the handler's address goes to `nextPC`. -/
def takeException (cfg : Config) (h : Hart) (c : ExcCode) (tval : Word) : Hart :=
  let t := delegatee cfg h.csr.medeleg c h.priv
  { h with
    csr := trapCsrs h.csr t h.priv c h.pc tval
    priv := t
    nextPC := trapVector h.csr t }

end Sys2Proof.Machine
end

