-- ==== Sys2Proof/Machine/CsrFile.lean ====
section
/-!
DEFINITION. The CSR file: the read function and the write rule of every CSR, and the CSR commands
(spec 41_csr_file.md R200-R221, 10_state.md R32-R54).
-/

namespace Sys2Proof.Machine

/-! ### Legalization of writes -/

/-- `EPC_MASK` (R42, R204): bit 0 cleared, and bit 1 too without the C extension. -/
def epcMask (cfg : Config) : Word :=
  if cfg.hasC then 0xFFFFFFFFFFFFFFFE#64 else 0xFFFFFFFFFFFFFFFC#64

/-- A write of `mtvec` or `stvec` (R214): BASE takes `v[63:2]`; the reserved modes 2 and 3 keep the old MODE. -/
def tvecWrite (old v : Word) : Word :=
  let mode := if (v.extractLsb' 0 2).toNat ≤ 1 then v.extractLsb' 0 2 else old.extractLsb' 0 2
  (v &&& 0xFFFFFFFFFFFFFFFC#64) ||| mode.setWidth 64

/-- A write of `mcounteren` or `scounteren` (R217). -/
def counterenWrite (v : Word) : Word :=
  v &&& 0x7#64

/-- A write of `vstart` (R219): `v mod VLEN`. -/
def vstartWrite (cfg : Config) (v : Word) : BitVec 16 :=
  BitVec.ofNat 16 (v.toNat % cfg.vlen)

/-! ### The read function (R204) -/

/-- `misa`: `0b10 ++ zeros(36) ++ MISA_EXT` (R41). -/
def misaValue (cfg : Config) : Word :=
  0b10#2 ++ 0#36 ++ cfg.misaExt

/-- `CSRView` of R204, for every CSR of R30. -/
def csrView (cfg : Config) (h : Hart) : Csr → Word
  | .fflags => (fflagsOf h.csr.fcsr).setWidth 64
  | .frm => (frmOf h.csr.fcsr).setWidth 64
  | .fcsr => h.csr.fcsr.setWidth 64
  | .vstart => h.csr.vstart.setWidth 64
  | .vxsat => h.csr.vxsat.setWidth 64
  | .vxrm => h.csr.vxrm.setWidth 64
  | .vcsr => vcsrView h.csr.vxrm h.csr.vxsat
  | .sstatus => mstatusRead cfg h.csr.mstatus &&& sstatusMask
  | .sie => h.csr.mie &&& h.csr.mideleg
  | .stvec => h.csr.stvec
  | .scounteren => h.csr.scounteren
  | .sscratch => h.csr.sscratch
  | .sepc => h.csr.sepc &&& epcMask cfg
  | .scause => h.csr.scause
  | .stval => h.csr.stval
  | .sip => h.csr.mip &&& h.csr.mideleg
  | .mstatus => mstatusRead cfg h.csr.mstatus
  | .misa => misaValue cfg
  | .medeleg => h.csr.medeleg
  | .mideleg => h.csr.mideleg
  | .mie => h.csr.mie
  | .mtvec => h.csr.mtvec
  | .mcounteren => h.csr.mcounteren
  | .mscratch => h.csr.mscratch
  | .mepc => h.csr.mepc &&& epcMask cfg
  | .mcause => h.csr.mcause
  | .mtval => h.csr.mtval
  | .mip => h.csr.mip
  | .pmpcfg n => h.readPmpcfg n.val
  | .pmpaddr i => h.readPmpaddr i.val
  | .mcycle => h.csr.mcycle
  | .minstret => h.csr.minstret
  | .cycle => h.csr.mcycle
  | .instret => h.csr.minstret
  | .vl => h.csr.vl
  | .vtype => h.csr.vtype
  | .vlenb => BitVec.ofNat 64 (cfg.vlen / 8)
  | .mvendorid => (cfg.mvendorid.extractLsb' 0 32).setWidth 64
  | .marchid => cfg.marchid
  | .mimpid => cfg.mimpid
  | .mhartid => cfg.mhartid

/-! ### The write function (R206) -/

/-- The CSR storage after `CSRWrite(id, v)`, for the CSRs whose storage is in the CSR file; the others, and the
read-only ones, leave it as it is. -/
def csrStorageWrite (cfg : Config) (k : Csrs) (v : Word) : Csr → Csrs
  | .fflags => { k with fcsr := fcsrOf (frmOf k.fcsr) (v.extractLsb' 0 5) }
  | .frm => { k with fcsr := fcsrOf (v.extractLsb' 0 3) (fflagsOf k.fcsr) }
  | .fcsr => { k with fcsr := v.extractLsb' 0 8 }
  | .vstart => { k with vstart := vstartWrite cfg v }
  | .vxsat => { k with vxsat := v.extractLsb' 0 1 }
  | .vxrm => { k with vxrm := v.extractLsb' 0 2 }
  | .vcsr => { k with vxrm := v.extractLsb' 1 2, vxsat := v.extractLsb' 0 1 }
  | .sstatus => { k with mstatus := sstatusWrite cfg k.mstatus v }
  | .sie => { k with mie := maskedWrite k.mie v (k.mideleg &&& sInterruptMask) }
  | .stvec => { k with stvec := tvecWrite k.stvec v }
  | .scounteren => { k with scounteren := counterenWrite v }
  | .sscratch => { k with sscratch := v }
  | .sepc => { k with sepc := v &&& epcMask cfg }
  | .scause => { k with scause := v }
  | .stval => { k with stval := v }
  | .sip => { k with mip := maskedWrite k.mip v (k.mideleg &&& 0x2#64) }
  | .mstatus => { k with mstatus := mstatusWrite cfg k.mstatus v }
  | .misa => k
  | .medeleg => { k with medeleg := v &&& medelegWmask }
  | .mideleg => { k with mideleg := v &&& midelegWmask }
  | .mie => { k with mie := v &&& mieWmask cfg }
  | .mtvec => { k with mtvec := tvecWrite k.mtvec v }
  | .mcounteren => { k with mcounteren := counterenWrite v }
  | .mscratch => { k with mscratch := v }
  | .mepc => { k with mepc := v &&& epcMask cfg }
  | .mcause => { k with mcause := v }
  | .mtval => { k with mtval := v }
  | .mip => { k with mip := maskedWrite k.mip v (mipWmask cfg) }
  | .pmpcfg _ => k
  | .pmpaddr _ => k
  | .mcycle => { k with mcycle := v }
  | .minstret => { k with minstret := v }
  | .cycle => k
  | .instret => k
  | .vl => k
  | .vtype => k
  | .vlenb => k
  | .mvendorid => k
  | .marchid => k
  | .mimpid => k
  | .mhartid => k

/-- `CSRWrite(id, v)` of R206: the PMP registers by R298 and R299, every other CSR in the CSR file. -/
def csrWrite (cfg : Config) (h : Hart) (c : Csr) (v : Word) : Hart :=
  match c with
  | .pmpcfg n => h.writePmpcfg n.val v
  | .pmpaddr i => h.writePmpaddr cfg i.val v
  | _ => { h with csr := csrStorageWrite cfg h.csr v c }

/-! ### The commands -/

/-- The CSR a number names at the hart's level under its configuration: `none` when `defined(id)` is false (R203). -/
def visibleCsr (s : State) (id : BitVec 12) : Option Csr :=
  if csrDefined s.cfg s.hart.priv id then csrOfNumber id else none

/-- READ_CSR (R200). -/
def execReadCsr (idx : BitVec 12) (s : State) : Host.Outcome State Fault Refusal :=
  checked s <|
    match visibleCsr s idx with
    | none => reply s .csrUndefined 0
    | some c => reply s .ok (csrView s.cfg s.hart c)

/-- WRITE_CSR (R201). -/
def execWriteCsr (idx : BitVec 12) (data : Word) (s : State) : Host.Outcome State Fault Refusal :=
  checked s <|
    match visibleCsr s idx with
    | none => reply s .csrUndefined 0
    | some c =>
      if csrReadOnlySpace idx then reply s .csrReadOnly 0
      else commit s (csrWrite s.cfg s.hart c data) .ok 0

/-- IS_CSR_DEFINED (R202). -/
def execIsCsrDefined (idx : BitVec 12) (s : State) : Host.Outcome State Fault Refusal :=
  checked s (reply s .ok (if csrDefined s.cfg s.hart.priv idx then 1 else 0))

/-- SET_VCONFIG (R221): both values are stored as given, whatever HAS_V is. -/
def execSetVconfig (data data2 : Word) (s : State) : Host.Outcome State Fault Refusal :=
  checked s (commit s { s.hart with csr := { s.hart.csr with vl := data, vtype := data2 } } .ok 0)

/-- SET_MIP_PLATFORM (R220): MSIP, MTIP and MEIP, at every level. -/
def execSetMipPlatform (data : Word) (s : State) : Host.Outcome State Fault Refusal :=
  checked s <|
    commit s { s.hart with csr := { s.hart.csr with mip := maskedWrite s.hart.csr.mip data mInterruptMask } } .ok 0

end Sys2Proof.Machine
end

