-- ==== Sys2Proof/Machine/Lifecycle.lean ====
section
/-!
DEFINITION. The decode facade and the hart's lifecycle (spec 44_decode_lifecycle.md R330, R331).
-/

namespace Sys2Proof.Machine

/-- `decodeFn` (R6, R149): the engine's decode, total over 32-bit words; its illegal variant carries the original bits
(R330). -/
def decodeFn (w : BitVec 32) : Operation :=
  match Config.engineDecode w with
  | none => .illegal w
  | some token => .structured token

/-- DECODE (R330): reads no state, and the result is on `roper`. -/
def execDecode (data : Word) (s : State) : Host.Outcome State Fault Refusal :=
  guarded s (instrWord data) fun w => .next (s.answerOper (decodeFn w))

/-- RESET (R331): the hart of a newly built block, whatever the state was, the fatal state included; the configuration
stays. -/
def execReset (s : State) : Host.Outcome State Fault Refusal :=
  commit s Hart.constructed .ok 0

end Sys2Proof.Machine
end

