-- ==== Sys2Proof/Machine/Pmp.lean ====
section
/-!
DEFINITION. The PMP comparator and address-range checker, and the PMP commands (spec 43_pmp.md R290-R302). Addresses are
compared as unbounded naturals (R8, R292).
-/

namespace Sys2Proof.Machine

/-- The address-matching modes of a configuration byte (R52). -/
inductive PmpMode where
  | off | tor | na4 | napot
  deriving DecidableEq, Repr

/-- The mode in bits 4:3 (R52, R291). -/
def pmpModeOf (b : BitVec 8) : PmpMode :=
  match (cfgA b).toNat with
  | 0 => .off
  | 1 => .tor
  | 2 => .na4
  | _ => .napot

/-- `range(i)` of R291: the half-open byte interval `[lo, hi)` of entry i, none when it is OFF. -/
def pmpRange (h : Hart) (i : Nat) : Option (Nat × Nat) :=
  let pa := (h.addrField i).setWidth 64
  match pmpModeOf (h.cfgByte i) with
  | .off => none
  | .tor => some (if i = 0 then 0 else (h.addrField (i - 1)).toNat * 4, pa.toNat * 4)
  | .na4 => some (pa.toNat * 4, pa.toNat * 4 + 4)
  | .napot =>
    let m := pa ^^^ (pa + 1)
    let lo := (pa &&& ~~~m).toNat * 4
    some (lo, lo + (m.toNat + 1) * 4)

/-- The three outcomes of matching an access against an entry (R292). -/
inductive PmpMatch where
  | noMatch | partialMatch | fullMatch
  deriving DecidableEq, Repr

/-- The classification of R292 for the `w` bytes at `a` against `[lo, hi)`. -/
def classify (lo hi a w : Nat) : PmpMatch :=
  if hi ≤ lo then .noMatch
  else if a + w ≤ lo ∨ hi ≤ a then .noMatch
  else if lo ≤ a ∧ a + w ≤ hi then .fullMatch
  else .partialMatch

/-- `addrMatch(i, a, w)` of R292. -/
def addrMatch (h : Hart) (i a w : Nat) : PmpMatch :=
  match pmpRange h i with
  | none => .noMatch
  | some (lo, hi) => classify lo hi a w

/-- `perm(i, k)` of R293. -/
def pmpPerm (b : BitVec 8) : AccessKind → Bool
  | .read => cfgR b
  | .write => cfgW b
  | .exec => cfgX b

/-- The result of one entry (R293). -/
inductive EntryResult where
  | continue | success | fail
  deriving DecidableEq, Repr

/-- `entryResult(i, a, w, k, p)` of R293: M bypasses an unlocked entry, and a partial match fails at every level. -/
def entryResult (h : Hart) (i a w : Nat) (k : AccessKind) (p : Priv) : EntryResult :=
  match addrMatch h i a w with
  | .noMatch => .continue
  | .partialMatch => .fail
  | .fullMatch =>
    if pmpPerm (h.cfgByte i) k || (p == .M && !cfgL (h.cfgByte i)) then .success else .fail

/-- `accessFault(k)` of R295. -/
def accessFault : AccessKind → ExcCode
  | .read => 5
  | .write => 7
  | .exec => 1

/-- The entries `is` in order, the first result that is not Continue deciding, then the default of R294: allowed at M,
denied below. -/
def pmpScan (h : Hart) (a w : Nat) (k : AccessKind) (p : Priv) : List Nat → Option ExcCode
  | [] => if p = .M then none else some (accessFault k)
  | i :: is =>
    match entryResult h i a w k p with
    | .success => none
    | .fail => some (accessFault k)
    | .continue => pmpScan h a w k p is

/-- `pmpCheck(a, w, k, p)` of R294: entries 0..PMP_COUNT-1 in order; with no implemented entries everything is
permitted (R296). -/
def pmpCheck (cfg : Config) (h : Hart) (a w : Nat) (k : AccessKind) (p : Priv) : Option ExcCode :=
  if cfg.pmpCount.toNat = 0 then none
  else pmpScan h a w k p (List.range cfg.pmpCount.toNat)

/-- The `rdata` of CHECK_ACCESS (R290): 0 when permitted, else `0x40 | code`. -/
def checkResult : Option ExcCode → Word
  | none => 0
  | some c => 0x40#64 ||| BitVec.ofNat 64 c.val

/-- CHECK_ACCESS (R290). -/
def execCheckAccess (kind : BitVec 6) (data : Word) (s : State) : Host.Outcome State Fault Refusal :=
  guarded s (accessKindOf kind) fun k =>
    reply s .ok (checkResult (pmpCheck s.cfg s.hart data.toNat pmpCheckWidth k s.hart.priv))

/-- An out-of-range PMP index: the fatal state, and nothing else changes (R300-R302, R333). -/
def enterFatal (s : State) : Host.Outcome State Fault Refusal :=
  commit s { s.hart with fatal := true } .fatal 0

/-- GET_PMPADDR (R300): raw access, at every level. -/
def execGetPmpaddr (idx : BitVec 12) (s : State) : Host.Outcome State Fault Refusal :=
  checked s <|
    if s.cfg.pmpCount.toNat ≤ idx.toNat then enterFatal s
    else reply s .ok (s.hart.readPmpaddr idx.toNat)

/-- SET_PMPADDR (R301): the lock rules of R298 apply, and no privilege check. -/
def execSetPmpaddr (idx : BitVec 12) (data : Word) (s : State) : Host.Outcome State Fault Refusal :=
  checked s <|
    if s.cfg.pmpCount.toNat ≤ idx.toNat then enterFatal s
    else commit s (s.hart.writePmpaddr s.cfg idx.toNat data) .ok 0

/-- SET_PMPCFG (R302): the index is the configuration register's number, even and with `4 * idx < PMP_COUNT`. -/
def execSetPmpcfg (idx : BitVec 12) (data : Word) (s : State) : Host.Outcome State Fault Refusal :=
  checked s <|
    if idx.toNat % 2 = 1 ∨ s.cfg.pmpCount.toNat ≤ 4 * idx.toNat then enterFatal s
    else commit s (s.hart.writePmpcfg idx.toNat data) .ok 0

end Sys2Proof.Machine
end

