-- ==== Sys2Proof/Machine/Privilege.lean ====
section
/-!
DEFINITION. The privilege-mode and trap-entry commands (spec 42_privilege_trap.md R260, R261, R263).
-/

namespace Sys2Proof.Machine

/-- GET_PRIV (R260). -/
def execGetPriv (s : State) : Host.Outcome State Fault Refusal :=
  checked s (reply s .ok (s.hart.priv.enc.setWidth 64))

/-- SET_PRIV (R261): any of the three levels, enabled by the configuration or not, and nothing else changes. -/
def execSetPriv (idx : BitVec 12) (s : State) : Host.Outcome State Fault Refusal :=
  guarded s (levelOf idx) fun p => commit s { s.hart with priv := p } .ok 0

/-- INJECT_EXCEPTION (R263): take the exception and answer the target level. -/
def execInjectException (kind : BitVec 6) (data : Word) (s : State) : Host.Outcome State Fault Refusal :=
  guarded s (excCode kind) fun c =>
    let h := takeException s.cfg s.hart c data
    commit s h .ok (h.priv.enc.setWidth 64)

end Sys2Proof.Machine
end

