-- ==== Sys2Proof/Machine/RegisterFile.lean ====
section
/-!
DEFINITION. The register-file, program-counter and host-interface commands (spec 40_register_file.md R170-R181).
-/

namespace Sys2Proof.Machine

/-- READ_GPR (R170). -/
def execReadGpr (idx : BitVec 12) (s : State) : Host.Outcome State Fault Refusal :=
  guarded s (regIndex idx) fun i => reply s .ok (s.hart.readX i)

/-- WRITE_GPR (R171). -/
def execWriteGpr (idx : BitVec 12) (data : Word) (s : State) : Host.Outcome State Fault Refusal :=
  guarded s (regIndex idx) fun i => commit s (s.hart.writeX i data) .ok 0

/-- READ_FPR (R172). -/
def execReadFpr (idx : BitVec 12) (s : State) : Host.Outcome State Fault Refusal :=
  guarded s (regIndex idx) fun i => reply s .ok (s.hart.readF i)

/-- WRITE_FPR (R173). -/
def execWriteFpr (idx : BitVec 12) (data : Word) (s : State) : Host.Outcome State Fault Refusal :=
  guarded s (regIndex idx) fun i => commit s (s.hart.writeF i data) .ok 0

/-- READ_VR (R174): the value is on `rvdata`, and `rdata` is 0. -/
def execReadVr (idx : BitVec 12) (s : State) : Host.Outcome State Fault Refusal :=
  guarded s (regIndex idx) fun i => .next (s.answerWith .ok 0 (s.hart.readV i))

/-- WRITE_VR (R175). -/
def execWriteVr (idx : BitVec 12) (vdata : VReg) (s : State) : Host.Outcome State Fault Refusal :=
  guarded s (regIndex idx) fun i => commit s (s.hart.writeV s.cfg i vdata) .ok 0

/-- READ_PC (R176). -/
def execReadPc (s : State) : Host.Outcome State Fault Refusal :=
  checked s (reply s .ok s.hart.pc)

/-- WRITE_PC (R177): stored as given, with no alignment check. -/
def execWritePc (data : Word) (s : State) : Host.Outcome State Fault Refusal :=
  checked s (commit s { s.hart with pc := data } .ok 0)

/-- READ_NEXTPC (R178). -/
def execReadNextPc (s : State) : Host.Outcome State Fault Refusal :=
  checked s (reply s .ok s.hart.nextPC)

/-- WRITE_NEXTPC (R179): stored as given, with no alignment check. -/
def execWriteNextPc (data : Word) (s : State) : Host.Outcome State Fault Refusal :=
  checked s (commit s { s.hart with nextPC := data } .ok 0)

/-- READ_HOST (R180). -/
def execReadHost (idx : BitVec 12) (s : State) : Host.Outcome State Fault Refusal :=
  guarded s (hostSelect idx) fun r => reply s .ok (s.hart.readHost r)

/-- WRITE_HOST (R181). -/
def execWriteHost (idx : BitVec 12) (data : Word) (s : State) : Host.Outcome State Fault Refusal :=
  guarded s (hostSelect idx) fun r => commit s (s.hart.writeHost r data) .ok 0

end Sys2Proof.Machine
end

