-- ==== Sys2Proof/Machine/Dispatch.lean ====
section
/-!
DEFINITION. One arm per command of the op-code table (spec 30_encoding.md R133), each one call of its meaning.
-/

namespace Sys2Proof.Machine

def exec (i : Instr) (s : State) : Host.Outcome State Fault Refusal :=
  match i with
  | .reset => Sys2Proof.Machine.execReset s
  | .readGpr idx => Sys2Proof.Machine.execReadGpr idx s
  | .writeGpr idx data => Sys2Proof.Machine.execWriteGpr idx data s
  | .readFpr idx => Sys2Proof.Machine.execReadFpr idx s
  | .writeFpr idx data => Sys2Proof.Machine.execWriteFpr idx data s
  | .readVr idx => Sys2Proof.Machine.execReadVr idx s
  | .writeVr idx vdata => Sys2Proof.Machine.execWriteVr idx vdata s
  | .readPc => Sys2Proof.Machine.execReadPc s
  | .writePc data => Sys2Proof.Machine.execWritePc data s
  | .readNextPc => Sys2Proof.Machine.execReadNextPc s
  | .writeNextPc data => Sys2Proof.Machine.execWriteNextPc data s
  | .readHost idx => Sys2Proof.Machine.execReadHost idx s
  | .writeHost idx data => Sys2Proof.Machine.execWriteHost idx data s
  | .readCsr idx => Sys2Proof.Machine.execReadCsr idx s
  | .writeCsr idx data => Sys2Proof.Machine.execWriteCsr idx data s
  | .isCsrDefined idx => Sys2Proof.Machine.execIsCsrDefined idx s
  | .setVconfig data data2 => Sys2Proof.Machine.execSetVconfig data data2 s
  | .setMipPlatform data => Sys2Proof.Machine.execSetMipPlatform data s
  | .getPriv => Sys2Proof.Machine.execGetPriv s
  | .setPriv idx => Sys2Proof.Machine.execSetPriv idx s
  | .injectException kind data => Sys2Proof.Machine.execInjectException kind data s
  | .checkAccess kind data => Sys2Proof.Machine.execCheckAccess kind data s
  | .getPmpaddr idx => Sys2Proof.Machine.execGetPmpaddr idx s
  | .setPmpaddr idx data => Sys2Proof.Machine.execSetPmpaddr idx data s
  | .setPmpcfg idx data => Sys2Proof.Machine.execSetPmpcfg idx data s
  | .decode data => Sys2Proof.Machine.execDecode data s

end Sys2Proof.Machine
end

