-- ==== Sys2Proof/Machine/Step.lean ====
section
/-!
DEFINITION. One step of the block: take the oldest pending request, decode it, perform it (spec 30_encoding.md R130,
R136; 00_scope.md R12). With no request pending the block is idle (60_exceptions.md R405).
-/

namespace Sys2Proof.Machine

/-- One step. A request whose op code is reserved is answered BAD_OP, or FATAL in the fatal state (R136). -/
def step (s : State) : Host.Outcome State Fault Refusal :=
  match takeRequest s with
  | none => idle s
  | some (r, s') =>
    match decode r with
    | .ok i => exec i s'
    | .error e => answerReject e s'

/-- The state with the request of a table word put first on the request port, so that the next step performs it
(notes/assumptions/5.md: a program comes to the block from outside, as requests). -/
def State.withFetchWord (s : State) (nbits w : Nat) : State :=
  { s with requests := requestOfTableWord nbits w :: s.requests }

end Sys2Proof.Machine
end

