-- ==== Sys2Proof/Machine/Engine.lean ====
section
/-!
DEFINITION. The client side of the port: the pseudo-commands of spec 30_encoding.md R146 and the engine's command
sequences of 45_client_sequences.md R350-R364 (informative there), each written as the commands it issues. The block's
own rules do not depend on them (92_eei_decisions.md D50), and neither does `step`: this file only composes `exec`
(notes/assumptions/15.md). The engine's own memory, instruction lengths and computations come in as arguments.
-/

namespace Sys2Proof.Machine

/-! ### Issuing commands -/

/-- Issue one command and take the state it leaves. (No command stops; a stop would leave the state as it was.) -/
def issue (i : Instr) (s : State) : State :=
  match exec i s with
  | .next t => t
  | .fault _ => s
  | .refused _ => s

/-- The `rdata` on the response port. -/
def State.rdata (s : State) : Word :=
  match s.response with
  | some r => r.rdata
  | none => 0

/-- The status on the response port is OK. -/
def State.answeredOk (s : State) : Bool :=
  match s.response with
  | some r => r.status == .ok
  | none => false

/-- Issue a command that reads something: its `rdata` and the state after it. -/
def ask (i : Instr) (s : State) : Word × State :=
  let t := issue i s
  (t.rdata, t)

/-- `INJECT_EXCEPTION c, tval`. -/
def raiseCode (c : BitVec 6) (tval : Word) (s : State) : State :=
  issue (.injectException c tval) s

/-! ### Pseudo-commands (R146) -/

/-- `STEP`: `READ_NEXTPC -> r; WRITE_PC r`. -/
def pseudoStep (s : State) : State :=
  let (r, s) := ask .readNextPc s
  issue (.writePc r) s

/-- `CSR_SET c, m`. -/
def pseudoCsrSet (c : BitVec 12) (m : Word) (s : State) : State :=
  let t := issue (.readCsr c) s
  if t.answeredOk then issue (.writeCsr c (t.rdata ||| m)) t else t

/-- `CSR_CLEAR c, m`. -/
def pseudoCsrClear (c : BitVec 12) (m : Word) (s : State) : State :=
  let t := issue (.readCsr c) s
  if t.answeredOk then issue (.writeCsr c (t.rdata &&& ~~~m)) t else t

/-- `SET_PMP_ENTRY e, a, cfg`: one entry's address and configuration byte, its seven neighbours kept. -/
def pseudoSetPmpEntry (e : BitVec 12) (a : Word) (cfg : BitVec 8) (s : State) : State :=
  let n := 2 * (e.toNat / 8)
  let s := issue (.setPmpaddr e a) s
  let (r, s) := ask (.readCsr (BitVec.ofNat 12 (0x3A0 + n))) s
  issue (.setPmpcfg (BitVec.ofNat 12 n) (setField r (8 * (e.toNat % 8)) cfg)) s

/-! ### The machine bracket (R359) -/

/-- `AS_M { seq }`: `SET_PRIV M`, the sequence, and the level read beforehand restored. -/
def asM (seq : State → State) (s : State) : State :=
  let (p, s) := ask .getPriv s
  let s := seq (issue (.setPriv 3) s)
  issue (.setPriv (p.setWidth 12)) s

/-- A CSR read inside the bracket: its value and the state after the bracket. -/
def readCsrAsM (id : BitVec 12) (s : State) : Word × State :=
  let (p, s) := ask .getPriv s
  let (v, s) := ask (.readCsr id) (issue (.setPriv 3) s)
  (v, issue (.setPriv (p.setWidth 12)) s)

/-! ### Loads, stores and control transfer (R358, R362, R364) -/

/-- CHECK_ACCESS for a load or store with MPRV (R358): at M with MPRV = 1 it is bracketed at the level in MPP. -/
def checkData (kind : BitVec 6) (a : Word) (s : State) : Word × State :=
  let (m, s) := readCsrAsM 0x300 s
  let (p, s) := ask .getPriv s
  if p = 3 ∧ m.getLsbD 17 then
    let s := issue (.setPriv ((mppOf m).setWidth 12)) s
    let (r, s) := ask (.checkAccess kind a) s
    (r, issue (.setPriv 3) s)
  else ask (.checkAccess kind a) s

/-- The two kinds of data access (R362). -/
inductive DataKind where
  | load
  /-- a store or an AMO -/
  | store
  deriving DecidableEq, Repr

/-- The `kind` CHECK_ACCESS takes for a data access: R or W. -/
def DataKind.access : DataKind → BitVec 6
  | .load => 0
  | .store => 1

/-- The code of a misaligned data access: 4 or 6. -/
def DataKind.misalignedCode : DataKind → BitVec 6
  | .load => 4
  | .store => 6

/-- The number `n` of bytes a data access moves. -/
inductive AccessSize where
  | b1 | b2 | b4 | b8
  deriving DecidableEq, Repr

/-- `n` as a number. -/
def AccessSize.bytes : AccessSize → Nat
  | .b1 => 1
  | .b2 => 2
  | .b4 => 4
  | .b8 => 8

/-- A load or store of `n` bytes at `a`. `trapsMisaligned` is the engine's choice, which R362 leaves to it ("may first
raise"): it traps this access if it is misaligned. -/
structure DataAccess where
  kind : DataKind
  size : AccessSize
  addr : Word
  trapsMisaligned : Bool
  deriving DecidableEq, Repr

/-- The address is no multiple of `n`. -/
def DataAccess.misaligned (d : DataAccess) : Bool :=
  d.addr.toNat % d.size.bytes != 0

/-- The checks of a load or store (R362): whether the engine goes on with it, and the state after them. Only a misaligned
access can raise 4 or 6. The check covers 8 bytes whatever `n` is (R104). -/
def loadStoreCheck (d : DataAccess) (s : State) : Bool × State :=
  if d.misaligned && d.trapsMisaligned then (false, raiseCode d.kind.misalignedCode d.addr s)
  else
    let (r, s) := checkData d.kind.access d.addr s
    if r ≠ 0 then (false, raiseCode ((r &&& 0x3F#64).setWidth 6) d.addr s) else (true, s)

/-- JAL, JALR or a taken branch to `t` (R364): `link` is the register index and value to link, if any. -/
def controlTransfer (t : Word) (link : Option (BitVec 5 × Word)) (s : State) : State :=
  if !s.cfg.hasC && t.getLsbD 1 then raiseCode 0 t s
  else
    let s := match link with
      | some (rd, v) => issue (.writeGpr (rd.setWidth 12) v) s
      | none => s
    issue (.writeNextPc t) s

/-! ### CSR instructions (R351, R352, R357) -/

/-- The three operations of the CSR instructions. -/
inductive CsrOp where
  | rw | rs | rc
  deriving DecidableEq, Repr

/-- One of CSRRW, CSRRS, CSRRC and their immediate forms: `src` is the rs1 field or `uimm`. -/
structure CsrInstr where
  op : CsrOp
  imm : Bool
  csr : BitVec 12
  rd : BitVec 5
  src : BitVec 5
  deriving DecidableEq, Repr

/-- fflags, frm, fcsr. -/
def isFpCsr (c : BitVec 12) : Bool :=
  c == 0x001#12 || c == 0x002#12 || c == 0x003#12

/-- vstart, vxsat, vxrm, vcsr, vl, vtype, vlenb. -/
def isVectorCsr (c : BitVec 12) : Bool :=
  c == 0x008#12 || c == 0x009#12 || c == 0x00A#12 || c == 0x00F#12 || c == 0xC20#12 || c == 0xC21#12 || c == 0xC22#12

/-- The counter-enable bit of `cycle` (0) and `instret` (2). -/
def counterBit (c : BitVec 12) : Option Nat :=
  if c = 0xC00#12 then some 0 else if c = 0xC02#12 then some 2 else none

/-- `counterEnabled(c)` for counter bit `b` (R352). -/
def counterEnabled (b : Nat) (s : State) : Bool × State :=
  let (p, s) := ask .getPriv s
  let (m, s) := readCsrAsM 0x306 s
  let (sc, s) := readCsrAsM 0x106 s
  (p == 3 || (p == 1 && m.getLsbD b) || (p == 0 && m.getLsbD b && (!s.cfg.hasS || sc.getLsbD b)), s)

/-- `AS_M { READ_CSR mstatus -> s ; WRITE_CSR mstatus, s | bits }`. -/
def orMstatusAsM (bits : Word) (s : State) : State :=
  asM (fun s => let (m, s) := ask (.readCsr 0x300) s; issue (.writeCsr 0x300 (m ||| bits)) s) s

/-- FS ← 3 (R357). -/
def dirtyFs (s : State) : State :=
  orMstatusAsM (3#64 <<< 13) s

/-- VS ← 3 (R357). -/
def dirtyVs (s : State) : State :=
  orMstatusAsM (3#64 <<< 9) s

/-- The dirtying after writes of these two kinds (R357). -/
def dirty (fs vs : Bool) (s : State) : State :=
  let s := if fs then dirtyFs s else s
  if vs then dirtyVs s else s

/-- The value a CSR instruction writes. -/
def csrOpValue : CsrOp → Word → Word → Word
  | .rw, _, v => v
  | .rs, old, v => old ||| v
  | .rc, old, v => old &&& ~~~v

/-- The part of R351 after the gates on FS, VS and the counters: the read-only test, the read, the write, the
destination register, and the dirtying of FS or VS. -/
def csrInstrAccess (k : CsrInstr) (w : BitVec 32) (s : State) : State :=
  let writes := k.op == .rw || k.src ≠ 0
  if writes && csrReadOnlySpace k.csr then raiseCode 2 (w.setWidth 64) s
  else
    let (v, s) := if k.imm then (k.src.setWidth 64, s) else ask (.readGpr (k.src.setWidth 12)) s
    let t := issue (.readCsr k.csr) s
    if !t.answeredOk then raiseCode 2 (w.setWidth 64) t
    else
      let old := t.rdata
      let s := if writes then issue (.writeCsr k.csr (csrOpValue k.op old v)) t else t
      let s := if k.rd ≠ 0 then issue (.writeGpr (k.rd.setWidth 12) old) s else s
      dirty (writes && isFpCsr k.csr) (writes && isVectorCsr k.csr) s

/-- CSRRW, CSRRS, CSRRC, CSRRWI, CSRRSI and CSRRCI, with instruction word `w` (R351). -/
def csrInstr (k : CsrInstr) (w : BitVec 32) (s : State) : State :=
  let (m, s) := readCsrAsM 0x300 s
  if isFpCsr k.csr && m.extractLsb' 13 2 == 0#2 then raiseCode 2 (w.setWidth 64) s
  else if isVectorCsr k.csr && m.extractLsb' 9 2 == 0#2 then raiseCode 2 (w.setWidth 64) s
  else
    match counterBit k.csr with
    | none => csrInstrAccess k w s
    | some b =>
      let (enabled, s) := counterEnabled b s
      if enabled then csrInstrAccess k w s else raiseCode 2 (w.setWidth 64) s

/-! ### Environment calls, breakpoints, returns and waits (R353-R356, R360, R361) -/

/-- ECALL (R353): code 8 + enc(priv), trap value 0. -/
def ecall (s : State) : State :=
  let (p, s) := ask .getPriv s
  raiseCode (8 + p.setWidth 6) 0 s

/-- EBREAK and C.EBREAK (R354): code 3, trap value `pc`. -/
def ebreak (s : State) : State :=
  let (a, s) := ask .readPc s
  raiseCode 3 a s

/-- The `mstatus` value MRET writes back (R355). -/
def mretStatus (cfg : Config) (m : Word) : Word :=
  let r := setField m 3 (m.extractLsb' 7 1)
  let r := setField r 7 1#1
  let r := setField r 11 (if cfg.hasU then 0#2 else 3#2)
  setField r 17 (if mppOf m = 3#2 then m.extractLsb' 17 1 else 0#1)

/-- The command sequence of a legal MRET (R355), which ends the machine bracket at the level in MPP. -/
def mretReturn (s : State) : State :=
  let s := issue (.setPriv 3) s
  let (m, s) := ask (.readCsr 0x300) s
  let (e, s) := ask (.readCsr 0x341) s
  let s := issue (.writeCsr 0x300 (mretStatus s.cfg m)) s
  let s := issue (.writeNextPc e) s
  issue (.setPriv ((mppOf m).setWidth 12)) s

/-- MRET (R355), the return from a trap taken to M: illegal below M. -/
def mret (w : BitVec 32) (s : State) : State :=
  let (p, s) := ask .getPriv s
  if p = 3 then mretReturn s else raiseCode 2 (w.setWidth 64) s

/-- The `mstatus` value SRET writes back (R356). -/
def sretStatus (m : Word) : Word :=
  let r := setField m 1 (m.extractLsb' 5 1)
  let r := setField r 5 1#1
  let r := setField r 8 0#1
  setField r 17 0#1

/-- The level in SPP, as SET_PRIV's `idx`: 1 S, 0 U. -/
def sppIdx (m : Word) : BitVec 12 :=
  (m.extractLsb' 8 1).setWidth 12

/-- The command sequence of a legal SRET (R356), which ends the machine bracket at the level in SPP. -/
def sretReturn (s : State) : State :=
  let s := issue (.setPriv 3) s
  let (m, s) := ask (.readCsr 0x300) s
  let (e, s) := ask (.readCsr 0x141) s
  let s := issue (.writeCsr 0x300 (sretStatus m)) s
  let s := issue (.writeNextPc e) s
  issue (.setPriv (sppIdx m)) s

/-- SRET is legal at M, and at S when TSR = 0; without S it is illegal at every level (R356). -/
def sretLegal (cfg : Config) (p m : Word) : Bool :=
  cfg.hasS && (p == 3 || (p == 1 && !m.getLsbD 22))

/-- SRET (R356), the return from a trap taken to S. -/
def sret (w : BitVec 32) (s : State) : State :=
  let (m, s) := readCsrAsM 0x300 s
  let (p, s) := ask .getPriv s
  if sretLegal s.cfg p m then sretReturn s else raiseCode 2 (w.setWidth 64) s

/-- WFI (R360): a no-op at M, and at S when TW = 0. -/
def wfi (w : BitVec 32) (s : State) : State :=
  let (m, s) := readCsrAsM 0x300 s
  let (p, s) := ask .getPriv s
  if p == 3 || (p == 1 && !m.getLsbD 21) then s else raiseCode 2 (w.setWidth 64) s

/-- FENCE and FENCE.I (R361, R111): no command of the block. -/
def fence (s : State) : State :=
  s

/-- SFENCE.VMA (R361): illegal at U, and at S when TVM = 1; otherwise a no-op. -/
def sfenceVma (w : BitVec 32) (s : State) : State :=
  let (m, s) := readCsrAsM 0x300 s
  let (p, s) := ask .getPriv s
  if p == 3 || (p == 1 && !m.getLsbD 20) then s else raiseCode 2 (w.setWidth 64) s

/-! ### Instructions that compute (R357, R362, R363)

What they compute is the engine's (R363): it comes in as the writes it amounts to. The gate on FS and VS, the access
checks, the writes and the dirtying after them are the spec's. -/

/-- A write by which an engine's computation reaches the block (R363). -/
inductive EngineWrite where
  | gpr (r : BitVec 5) (v : Word)
  | fpr (r : BitVec 5) (v : Word)
  | vr (r : BitVec 5) (v : VReg)
  | csr (c : BitVec 12) (v : Word)
  | vconfig (vl vtype : Word)
  deriving DecidableEq, Repr

/-- The command that performs a write. -/
def EngineWrite.command : EngineWrite → Instr
  | .gpr r v => .writeGpr (r.setWidth 12) v
  | .fpr r v => .writeFpr (r.setWidth 12) v
  | .vr r v => .writeVr (r.setWidth 12) v
  | .csr c v => .writeCsr c v
  | .vconfig vl vtype => .setVconfig vl vtype

/-- The write makes the FP state dirty: an FP register, `fflags`, `frm` or both as `fcsr` (R357). -/
def EngineWrite.dirtiesFs : EngineWrite → Bool
  | .gpr _ _ => false
  | .fpr _ _ => true
  | .vr _ _ => false
  | .csr c _ => isFpCsr c
  | .vconfig _ _ => false

/-- The write makes the vector state dirty: a vector register or a vector CSR, which `vl` and `vtype` are (R357). -/
def EngineWrite.dirtiesVs : EngineWrite → Bool
  | .gpr _ _ => false
  | .fpr _ _ => false
  | .vr _ _ => true
  | .csr c _ => isVectorCsr c
  | .vconfig _ _ => true

/-- A write and the dirtying after it. -/
def engineWrite (e : EngineWrite) (s : State) : State :=
  dirty e.dirtiesFs e.dirtiesVs (issue e.command s)

/-- One act of an instruction that computes: a checked access to the engine's memory, or a write to the block. -/
inductive EngineAct where
  | access (d : DataAccess)
  | write (e : EngineWrite)
  deriving DecidableEq, Repr

/-- The acts in order, up to the first access that traps. -/
def engineActs : List EngineAct → State → State
  | [], s => s
  | .access d :: acts, s =>
    let (goesOn, s) := loadStoreCheck d s
    if goesOn then engineActs acts s else s
  | .write e :: acts, s => engineActs acts (engineWrite e s)

/-- Which units an instruction belongs to: FP, vector, both (vector FP) or neither. -/
structure UnitUse where
  fp : Bool
  vector : Bool
  deriving DecidableEq, Repr

/-- An FP instruction with FS = 0, or a vector instruction with VS = 0, for the `mstatus` value `m` (R357). -/
def UnitUse.off (u : UnitUse) (m : Word) : Bool :=
  (u.fp && m.extractLsb' 13 2 == 0#2) || (u.vector && m.extractLsb' 9 2 == 0#2)

/-- The act writes FP state. -/
def EngineAct.writesFp : EngineAct → Bool
  | .access _ => false
  | .write e => e.dirtiesFs

/-- The act writes vector state. -/
def EngineAct.writesVector : EngineAct → Bool
  | .access _ => false
  | .write e => e.dirtiesVs

/-- The units of an instruction with these acts: those named, and those whose state it writes. -/
def UnitUse.andOf (u : UnitUse) (acts : List EngineAct) : UnitUse where
  fp := u.fp || acts.any EngineAct.writesFp
  vector := u.vector || acts.any EngineAct.writesVector

/-- An integer, FP or vector instruction with word `w` (R357, R362): code 2 if its unit is off, and else its acts. -/
def unitInstr (u : UnitUse) (acts : List EngineAct) (w : BitVec 32) (s : State) : State :=
  let (m, s) := readCsrAsM 0x300 s
  if (u.andOf acts).off m then raiseCode 2 (w.setWidth 64) s else engineActs acts s

/-! ### One instruction (R350) -/

/-- What the engine executes for a decoded operation: an instruction with a sequence of its own in
45_client_sequences.md, or one that computes, as the acts it amounts to. -/
inductive EngineOp where
  /-- R351 -/
  | csr (k : CsrInstr)
  /-- R353 -/
  | ecall
  /-- R354 -/
  | ebreak
  /-- R355 -/
  | mret
  /-- R356 -/
  | sret
  /-- R360 -/
  | wfi
  /-- FENCE or FENCE.I, R361 -/
  | fence
  /-- R361 -/
  | sfenceVma
  /-- R364; a branch not taken is `compute` with no act -/
  | transfer (target : Word) (link : Option (BitVec 5 × Word))
  /-- R357, R362, R363 -/
  | compute (u : UnitUse) (acts : List EngineAct)
  deriving DecidableEq, Repr

/-- The execution of one operation with instruction word `w` (R350: "execute op"). -/
def executeOp (op : EngineOp) (w : BitVec 32) (s : State) : State :=
  match op with
  | .csr k => csrInstr k w s
  | .ecall => ecall s
  | .ebreak => ebreak s
  | .mret => mret w s
  | .sret => sret w s
  | .wfi => wfi w s
  | .fence => fence s
  | .sfenceVma => sfenceVma w s
  | .transfer t link => controlTransfer t link s
  | .compute u acts => unitInstr u acts w s

/-- The length of an instruction, 2 or 4 bytes. -/
inductive InstrLength where
  | two | four
  deriving DecidableEq, Repr

/-- The length as what R350 adds to the address. -/
def InstrLength.bytes : InstrLength → Word
  | .two => 2
  | .four => 4

/-- The engine's parts of the step loop, none of which the spec gives: its memory, the length it reads from an instruction
word (R144), and what a decoded operation amounts to in a state (the operands it selects, the results it computes). -/
structure Engine where
  memory : Word → BitVec 8
  length : BitVec 32 → InstrLength
  interpret : Operation → BitVec 32 → State → EngineOp

/-- The 32 bits at `a` of the engine's memory, little-endian (R103, R350). Within 3 bytes of 2^64 the upper bytes are
those at the addresses modulo 2^64: no rule says how a fetch wraps. DESIGN CHOICE (notes/assumptions/21.md). -/
def Engine.fetch (e : Engine) (a : Word) : BitVec 32 :=
  e.memory (a + 3) ++ e.memory (a + 2) ++ e.memory (a + 1) ++ e.memory a

/-- The part of the step loop from DECODE on: the trap of an illegal word, or the execution, and STEP. -/
def engineDecodeExecute (e : Engine) (w : BitVec 32) (s : State) : State :=
  let s := issue (.decode (w.setWidth 64)) s
  match s.response with
  | some ⟨_, _, _, .illegal b⟩ => pseudoStep (raiseCode 2 (b.setWidth 64) s)
  | some ⟨_, _, _, .structured n⟩ => pseudoStep (executeOp (e.interpret (.structured n) w s) w s)
  | none => s

/-- The step loop's body (R350). -/
def engineStep (e : Engine) (s : State) : State :=
  let s := issue .getPriv s
  let (a, s) := ask .readPc s
  let (r, s) := ask (.checkAccess 2 a) s
  if r ≠ 0 then pseudoStep (raiseCode ((r &&& 0x3F#64).setWidth 6) a s)
  else
    let w := e.fetch a
    engineDecodeExecute e w (issue (.writeNextPc (a + (e.length w).bytes)) s)

/-! ### Exception priority (R388, informative)

Two exceptions never meet inside the block (R387): this is the engine's choice of the code it injects. -/

/-- The exception conditions one instruction can meet, as R388 lists them. -/
inductive EngineCondition where
  | fetchBreakpoint
  | fetchPageFault
  | fetchTranslationFault
  | fetchAccessFault
  | illegalInstr
  | targetMisaligned
  | ecall (from_ : Priv)
  | ebreak
  | dataBreakpoint
  | dataMisaligned (store : Bool)
  | dataPageFault (store : Bool)
  | dataTranslationFault (store : Bool)
  | dataAccessFault (store : Bool)
  deriving DecidableEq, Repr

/-- The code a condition is injected as (R380). -/
def EngineCondition.code : EngineCondition → ExcCode
  | .fetchBreakpoint => 3
  | .fetchPageFault => 12
  | .fetchTranslationFault => 1
  | .fetchAccessFault => 1
  | .illegalInstr => 2
  | .targetMisaligned => 0
  | .ecall p => match p with
    | .U => 8
    | .S => 9
    | .M => 11
  | .ebreak => 3
  | .dataBreakpoint => 3
  | .dataMisaligned store => if store then 6 else 4
  | .dataPageFault store => if store then 15 else 13
  | .dataTranslationFault store => if store then 7 else 5
  | .dataAccessFault store => if store then 7 else 5

/-- The rank of a condition, the smallest first; `misalignedFirst` is the implementation's choice between the two places
R388 gives a misaligned access. -/
def EngineCondition.rank (misalignedFirst : Bool) : EngineCondition → Nat
  | .fetchBreakpoint => 1
  | .fetchPageFault => 2
  | .fetchTranslationFault => 2
  | .fetchAccessFault => 3
  | .illegalInstr => 4
  | .targetMisaligned => 4
  | .ecall _ => 4
  | .ebreak => 4
  | .dataBreakpoint => 4
  | .dataMisaligned _ => if misalignedFirst then 5 else 8
  | .dataPageFault _ => 6
  | .dataTranslationFault _ => 6
  | .dataAccessFault _ => 7

/-- The condition an engine injects among several: the one of the smallest rank. Of equal ones, which R388 does not
order, it is the first listed. DESIGN CHOICE (notes/assumptions/22.md). -/
def injectedCondition (misalignedFirst : Bool) : List EngineCondition → Option EngineCondition
  | [] => none
  | c :: cs =>
    match injectedCondition misalignedFirst cs with
    | none => some c
    | some d => if c.rank misalignedFirst ≤ d.rank misalignedFirst then some c else some d

/-! ### Interrupts and the harness (R385, R404, informative)

The block takes no interrupt (R386): nothing below is called by `step`. -/

/-- Interrupt `i` is pending, enabled, and taken at this level under the priv 1.12 rules (R385), if it is taken. -/
def interruptTakenAt (h : Hart) (i : Nat) : Option Priv :=
  if h.csr.mip.getLsbD i && h.csr.mie.getLsbD i then
    if h.csr.mideleg.getLsbD i then
      if h.priv = .U ∨ (h.priv = .S ∧ h.csr.mstatus.getLsbD 1) then some .S else none
    else if h.priv ≠ .M ∨ h.csr.mstatus.getLsbD 3 then some .M
    else none
  else none

/-- The order among several: MEI, MSI, MTI, SEI, SSI, STI (R385). -/
def interruptOrder : List Nat :=
  [11, 3, 7, 9, 1, 5]

/-- The interrupt an engine would take first, and its level (R385). -/
def firstInterrupt (h : Hart) : Option (Nat × Priv) :=
  interruptOrder.findSome? fun i => (interruptTakenAt h i).map fun t => (i, t)

/-- HTIF (R404): a `tohost` value with bit 0 set asks the harness to stop, with this exit code. -/
def htifExit (tohost : Word) : Option Word :=
  if tohost.getLsbD 0 then some (tohost >>> 1) else none

end Sys2Proof.Machine
end

