-- ==== Sys2Proof/Safety.lean ====
section
/-!
DEFINITION. The terms claims about this block use: what it means that a command completes, which states and runs are safe
(spec 44_decode_lifecycle.md R333), and the invariant that every reachable state keeps: the WARL fields stay legal
(10_state.md R31-R54, 43_pmp.md R297).
-/

namespace Sys2Proof.Machine

/-- The outcome `o` of a command performed in state `s` is a next state with hart `h`, the same configuration and
pending requests, and a response of this status, `rdata` and `rvdata`. (What `roper` carries is not said: R132.) -/
def Completes (o : Host.Outcome State Fault Refusal) (s : State) (h : Hart) (status : Status) (rdata : Word)
    (rvdata : VReg) : Prop :=
  ∃ t r, o = .next t ∧ t.cfg = s.cfg ∧ t.hart = h ∧ t.requests = s.requests ∧
    t.response = some r ∧ r.status = status ∧ r.rdata = rdata ∧ r.rvdata = rvdata

/-- A state is safe when the hart is not in the fatal state: "in the fatal case the hart's state is considered invalid
thereafter" (R333). -/
def Safe (s : State) : Prop :=
  s.hart.fatal = false

/-- A run of `n` steps from `s` to `t` through safe states only. -/
def SafeRun : Nat → State → State → Prop
  | 0, s, t => s = t ∧ Safe s
  | n + 1, s, t => Safe s ∧ ∃ u, step s = .next u ∧ SafeRun n u t

/-- The command's operand is outside its domain: R135's table as inequalities, row by row. -/
def OutOfDomain : Instr → Prop
  | .readGpr idx => 31 < idx.toNat
  | .writeGpr idx _ => 31 < idx.toNat
  | .readFpr idx => 31 < idx.toNat
  | .writeFpr idx _ => 31 < idx.toNat
  | .readVr idx => 31 < idx.toNat
  | .writeVr idx _ => 31 < idx.toNat
  | .readHost idx => 1 < idx.toNat
  | .writeHost idx _ => 1 < idx.toNat
  | .setPriv idx => idx.toNat = 2 ∨ 3 < idx.toNat
  | .injectException kind _ => 15 < kind.toNat
  | .checkAccess kind _ => 2 < kind.toNat
  | .decode data => data.extractLsb' 32 32 ≠ 0#32
  | .reset => False
  | .readPc => False
  | .writePc _ => False
  | .readNextPc => False
  | .writeNextPc _ => False
  | .readCsr _ => False
  | .writeCsr _ _ => False
  | .isCsrDefined _ => False
  | .setVconfig _ _ => False
  | .setMipPlatform _ => False
  | .getPriv => False
  | .getPmpaddr _ => False
  | .setPmpaddr _ _ => False
  | .setPmpcfg _ _ => False

/-- Bit `j` of `csr.mstatus` is RW or WARL and present under the configuration: R32's field table, row by row. -/
def rwBit (cfg : Config) (j : Nat) : Bool :=
  [3, 7, 11, 12].contains j || (cfg.hasS && [1, 5, 8, 18, 19, 20, 22].contains j) ||
  (cfg.hasU && [17, 21].contains j) || (cfg.hasV && [9, 10].contains j) || (cfg.hasF && [13, 14].contains j)

/-- Op codes that R142 reserves, range by range. -/
def ReservedOp (op : Nat) : Prop :=
  op = 0x00 ∨ (0x0E ≤ op ∧ op ≤ 0x0F) ∨ (0x15 ≤ op ∧ op ≤ 0x1F) ∨ (0x23 ≤ op ∧ op ≤ 0x2F) ∨
  (0x34 ≤ op ∧ op ≤ 0x3F) ∨ (0x41 ≤ op ∧ op ≤ 0xFF)

/-- Every request with op code `op` selects the command that `mk` makes of its fields (R133). -/
def Encodes (op : BitVec 8) (mk : Request → Instr) : Prop :=
  ∀ r : Request, r.op = op → Sys2Proof.decode r = .ok (mk r)

/-- The current level exists under the configuration. -/
def LevelExists (s : State) : Prop :=
  (s.hart.priv = .S → s.cfg.hasS = true) ∧ (s.hart.priv = .U → s.cfg.hasU = true)

/-- The invariant of the block: every field with a set of legal values holds a legal one. -/
structure Inv (s : State) : Prop where
  /-- the configuration is legal (R6, R41) -/
  cfgLegal : s.cfg.legal = true
  /-- only RW and WARL bits of `csr.mstatus` are ever 1 (R31, R32) -/
  mstatusBits : s.hart.csr.mstatus &&& ~~~(mstatusRw s.cfg) = 0
  /-- MPP never holds the reserved encoding 2 (R32, R207) -/
  mppNotReserved : mppOf s.hart.csr.mstatus ≠ 2#2
  /-- R35: bits 10, 11, 14 and 63:16 are 0 -/
  medelegBits : s.hart.csr.medeleg &&& ~~~medelegWmask = 0
  /-- R36 -/
  midelegBits : s.hart.csr.mideleg &&& ~~~midelegWmask = 0
  /-- R37 -/
  mieBits : s.hart.csr.mie &&& ~~~(mieWmask s.cfg) = 0
  /-- R38 -/
  mipBits : s.hart.csr.mip &&& ~~~(mInterruptMask ||| mipWmask s.cfg) = 0
  /-- R40: MODE is 0 or 1 -/
  mtvecMode : s.hart.csr.mtvec.getLsbD 1 = false
  stvecMode : s.hart.csr.stvec.getLsbD 1 = false
  /-- R46: bits 63:3 are 0 -/
  mcounterenBits : s.hart.csr.mcounteren &&& ~~~0x7#64 = 0
  scounterenBits : s.hart.csr.scounteren &&& ~~~0x7#64 = 0
  /-- R50: an element index below VLEN -/
  vstartBelow : s.hart.csr.vstart.toNat < s.cfg.vlen
  /-- R28: VLEN bits each -/
  vregsBelow : ∀ i : RegIndex, s.hart.readV i < 2 ^ s.cfg.vlen
  /-- R52: bits 6:5 are 0, and W = 1 with R = 0 never appears -/
  cfgBytes : ∀ i : Nat, s.hart.cfgByte i &&& 0x60#8 = 0 ∧ (cfgW (s.hart.cfgByte i) = true → cfgR (s.hart.cfgByte i) = true)
  /-- R20: there is no entry from PMP_COUNT on -/
  noEntryPastCount : ∀ i : Nat, s.cfg.pmpCount.toNat ≤ i → s.hart.cfgByte i = 0 ∧ s.hart.addrField i = 0

/-! ### The engine's sequences -/

/-- The level a load or store is judged at (R358): MPP's at M with MPRV = 1, else the current one. -/
def DataLevel (s : State) (p : Priv) : Prop :=
  if s.hart.priv = .M ∧ (mstatusRead s.cfg s.hart.csr.mstatus).getLsbD 17 = true then
    levelOf ((mppOf (mstatusRead s.cfg s.hart.csr.mstatus)).setWidth 12) = some p
  else p = s.hart.priv

/-- The unit of an instruction of the engine is off (R357): it is an FP instruction, or writes FP state, with FS = 0, or
the same of the vector unit with VS = 0. -/
def UnitOff (s : State) (u : UnitUse) (acts : List EngineAct) : Prop :=
  ((u.fp = true ∨ ∃ e, EngineAct.write e ∈ acts ∧ e.dirtiesFs = true) ∧
    (mstatusRead s.cfg s.hart.csr.mstatus).extractLsb' 13 2 = 0#2) ∨
  ((u.vector = true ∨ ∃ e, EngineAct.write e ∈ acts ∧ e.dirtiesVs = true) ∧
    (mstatusRead s.cfg s.hart.csr.mstatus).extractLsb' 9 2 = 0#2)

end Sys2Proof.Machine
end

