-- ==== Sys2Proof/Certificates/Slice0/Obligations.lean ====
section
/-!
DEFINITION. The statements about the block, for the provers: the port and its checks, the register files, the CSR file,
privilege and trap entry, the PMP, decode and reset, the returns from a trap as the engine performs them, and the
invariants every step keeps. `Completes o s h st rd rv` (Sys2Proof/Safety.lean) says that the outcome is a next state
whose hart is `h` (so everything not named in `h` is unchanged), with this answer on the response port.
-/

open Sys2Proof Sys2Proof.Machine

/-! ### The port, its checks, and the lifecycle -/

/-- R331: RESET, from every state, the fatal one included. -/
def Obligations.ResetZeroesTheHart : Prop :=
  Encodes 0x01 (fun _ => .reset) ∧
  ∀ s : State, ∃ h : Hart, Completes (exec .reset s) s h .ok 0 0 ∧
    h.pc = 0 ∧ h.nextPC = 0 ∧ (∀ i, h.readX i = 0) ∧ (∀ i, h.readF i = 0) ∧ (∀ i, h.readV i = 0) ∧
    h.csr = { mstatus := 0, medeleg := 0, mideleg := 0, mie := 0, mip := 0, mtvec := 0, stvec := 0,
              mcounteren := 0, scounteren := 0, mscratch := 0, sscratch := 0, mepc := 0, sepc := 0,
              mcause := 0, scause := 0, mtval := 0, stval := 0, mcycle := 0, minstret := 0,
              fcsr := 0, vstart := 0, vxsat := 0, vxrm := 0, vl := 0, vtype := 0 } ∧
    (∀ i, h.cfgByte i = 0 ∧ h.addrField i = 0) ∧ h.tohost = 0 ∧ h.fromhost = 0 ∧ h.priv = .M ∧ h.fatal = false ∧
    h = (State.construct s.cfg).hart

/-- R430, R432, R59: what reads after RESET, under every configuration. -/
def Obligations.ReadsAfterReset : Prop :=
  ∀ s : State, ∃ t, exec .reset s = .next t ∧ t.hart.priv = .M ∧ t.hart.pc = 0 ∧
    csrView t.cfg t.hart .mstatus =
      (if s.cfg.hasU then 0#64 else 0x1800#64) ||| (if s.cfg.hasU then 0x200000000#64 else 0#64) |||
        (if s.cfg.hasS then 0x800000000#64 else 0#64) ∧
    csrView t.cfg t.hart .sstatus = (if s.cfg.hasU then 0x200000000#64 else 0#64) ∧
    (∀ c ∈ [Csr.sie, .sip, .mie, .mip, .fflags, .frm, .fcsr, .vcsr, .vl, .vtype, .cycle, .instret, .mtvec, .mepc],
      csrView t.cfg t.hart c = 0) ∧
    (∀ n, csrView t.cfg t.hart (.pmpcfg n) = 0) ∧ (∀ i, csrView t.cfg t.hart (.pmpaddr i) = 0) ∧
    csrView t.cfg t.hart .misa = (2#64 <<< 62) ||| s.cfg.misaExt.setWidth 64 ∧
    csrView t.cfg t.hart .vlenb = BitVec.ofNat 64 (s.cfg.vlen / 8)

/-- R333, R136: an out-of-range PMP index sets `fatal` and nothing else; while it is set every request but RESET answers
FATAL and changes nothing, reserved op codes included; RESET clears it. -/
def Obligations.FatalStateAbsorbsUntilReset : Prop :=
  (∀ (s : State) (idx : BitVec 12) (v : Word), s.hart.fatal = false → s.cfg.pmpCount.toNat ≤ idx.toNat →
    Completes (exec (.getPmpaddr idx) s) s { s.hart with fatal := true } .fatal 0 0 ∧
    Completes (exec (.setPmpaddr idx v) s) s { s.hart with fatal := true } .fatal 0 0) ∧
  (∀ (s : State) (idx : BitVec 12) (v : Word), s.hart.fatal = false →
    (idx.toNat % 2 = 1 ∨ s.cfg.pmpCount.toNat ≤ 4 * idx.toNat) →
    Completes (exec (.setPmpcfg idx v) s) s { s.hart with fatal := true } .fatal 0 0) ∧
  (∀ (s : State) (r : Request) (rest : List Request), s.hart.fatal = true → s.requests = r :: rest →
    r.op ≠ 0x01#8 → Completes (step s) { s with requests := rest } s.hart .fatal 0 0) ∧
  (∀ (s : State) (r : Request) (rest : List Request), s.requests = r :: rest → r.op = 0x01#8 →
    ∃ h, Completes (step s) { s with requests := rest } h .ok 0 0 ∧ h.fatal = false)

/-- R136: the order in which a request is judged: the fatal state, the reserved op codes, the operand's domain, and then
the command's own rule, which answers neither BAD_OP nor BAD_OPERAND. -/
def Obligations.ChecksAreJudgedInOrder : Prop :=
  ∀ (s : State) (r : Request) (rest : List Request), s.requests = r :: rest →
    let s' : State := { s with requests := rest }
    (s.hart.fatal = true → r.op ≠ 0x01#8 → Completes (step s) s' s.hart .fatal 0 0) ∧
    (s.hart.fatal = false ∨ r.op = 0x01#8 →
      (ReservedOp r.op.toNat → Completes (step s) s' s.hart .badOp 0 0) ∧
      (∀ i, Sys2Proof.decode r = .ok i → OutOfDomain i → Completes (step s) s' s.hart .badOperand 0 0) ∧
      (∀ i, Sys2Proof.decode r = .ok i → ¬ OutOfDomain i → step s = exec i s' ∧
        ∃ t a, exec i s' = .next t ∧ t.response = some a ∧ a.status ≠ .badOp ∧ a.status ≠ .badOperand))

/-- R135: exactly the operands outside R135's domains answer BAD_OPERAND, and then nothing changes. -/
def Obligations.OperandOutOfDomainAnswersBadOperand : Prop :=
  ∀ (i : Instr) (s : State), s.hart.fatal = false →
    (OutOfDomain i → Completes (exec i s) s s.hart .badOperand 0 0) ∧
    (¬ OutOfDomain i → ∃ t r, exec i s = .next t ∧ t.response = some r ∧ r.status ≠ .badOperand)

/-- R142, R332: the decoder rejects exactly the reserved op codes, and the block answers them BAD_OP. -/
def Obligations.ReservedOpCodesAnswerBadOp : Prop :=
  (∀ r : Request, (∃ e, Sys2Proof.decode r = .error e) ↔ ReservedOp r.op.toNat) ∧
  (∀ (s : State) (r : Request) (rest : List Request), s.hart.fatal = false → s.requests = r :: rest →
    ReservedOp r.op.toNat → Completes (step s) { s with requests := rest } s.hart .badOp 0 0)

/-- R130: a step performs the command the oldest request decodes to, with that request taken off the port; with no
request the block is idle (R405). -/
def Obligations.StepRunsTheDecodedCommand : Prop :=
  (∀ (s : State) (r : Request) (rest : List Request) (i : Instr), s.requests = r :: rest →
    Sys2Proof.decode r = .ok i → step s = exec i { s with requests := rest }) ∧
  (∀ s : State, s.requests = [] → step s = .next s)

/-- R12, R130, R5: from every state a step answers a next state; it takes one request off the port, leaves a response,
and never changes the configuration. -/
def Obligations.EveryStepAnswersAndKeepsTheConfiguration : Prop :=
  ∀ s : State, ∃ t, step s = .next t ∧ t.cfg = s.cfg ∧ t.requests = s.requests.tail ∧
    (s.requests ≠ [] → t.response.isSome = true)

/-- R134: a status other than OK leaves the hart as it was, but for `fatal` itself. -/
def Obligations.NoPartialFailure : Prop :=
  ∀ (i : Instr) (s t : State) (r : Response), exec i s = .next t → t.response = some r → r.status ≠ .ok →
    (r.status = .fatal → t.hart = { s.hart with fatal := true }) ∧ (r.status ≠ .fatal → t.hart = s.hart) ∧
    r.rdata = 0 ∧ r.rvdata = 0

/-! ### Encoding -/

/-- R133, R147: op codes written out from the table, and three packed requests with their fields in place. -/
def Obligations.TableWordsDecode : Prop :=
  decodeTableWord 8 0x01 = some .reset ∧ decodeTableWord 8 0x0A = some .readNextPc ∧
  decodeTableWord 8 0x20 = some .getPriv ∧ decodeTableWord 8 0x22 = some (.injectException 0 0) ∧
  decodeTableWord 8 0x33 = some (.setPmpcfg 0 0) ∧ decodeTableWord 8 0x40 = some (.decode 0) ∧
  decodeTableWord 8 0x00 = none ∧ decodeTableWord 8 0x0E = none ∧ decodeTableWord 8 0xFF = none ∧
  decodeTableWord 90 (0x11 + 0x305 * 2 ^ 8 + 0x80000000 * 2 ^ 26) = some (.writeCsr 0x305 0x80000000) ∧
  decodeTableWord 90 (0x22 + 7 * 2 ^ 20 + 0x80000100 * 2 ^ 26) = some (.injectException 7 0x80000100) ∧
  decodeTableWord 154 (0x13 + 4 * 2 ^ 26 + 0x10 * 2 ^ 90) = some (.setVconfig 4 0x10)

/-- R133: the op-code table, row by row: what each op code selects, and with which fields. -/
def Obligations.OpCodeTable : Prop :=
  Encodes 0x01 (fun _ => .reset) ∧ Encodes 0x02 (fun r => .readGpr r.idx) ∧
  Encodes 0x03 (fun r => .writeGpr r.idx r.data) ∧ Encodes 0x04 (fun r => .readFpr r.idx) ∧
  Encodes 0x05 (fun r => .writeFpr r.idx r.data) ∧ Encodes 0x06 (fun r => .readVr r.idx) ∧
  Encodes 0x07 (fun r => .writeVr r.idx r.vdata) ∧ Encodes 0x08 (fun _ => .readPc) ∧
  Encodes 0x09 (fun r => .writePc r.data) ∧ Encodes 0x0A (fun _ => .readNextPc) ∧
  Encodes 0x0B (fun r => .writeNextPc r.data) ∧ Encodes 0x0C (fun r => .readHost r.idx) ∧
  Encodes 0x0D (fun r => .writeHost r.idx r.data) ∧ Encodes 0x10 (fun r => .readCsr r.idx) ∧
  Encodes 0x11 (fun r => .writeCsr r.idx r.data) ∧ Encodes 0x12 (fun r => .isCsrDefined r.idx) ∧
  Encodes 0x13 (fun r => .setVconfig r.data r.data2) ∧ Encodes 0x14 (fun r => .setMipPlatform r.data) ∧
  Encodes 0x20 (fun _ => .getPriv) ∧ Encodes 0x21 (fun r => .setPriv r.idx) ∧
  Encodes 0x22 (fun r => .injectException r.kind r.data) ∧ Encodes 0x30 (fun r => .checkAccess r.kind r.data) ∧
  Encodes 0x31 (fun r => .getPmpaddr r.idx) ∧ Encodes 0x32 (fun r => .setPmpaddr r.idx r.data) ∧
  Encodes 0x33 (fun r => .setPmpcfg r.idx r.data) ∧ Encodes 0x40 (fun r => .decode r.data) ∧
  ∀ r : Request, ReservedOp r.op.toNat → ∃ e, Sys2Proof.decode r = .error e

/-- Every command, well formed or not, decodes back from its packed request word: no bit of any field is dropped. -/
def Obligations.EncodedCommandDecodesBack : Prop :=
  ∀ i : Instr, decodeWord (encodeWord i) = .ok i

/-- R131, R147: two requests that agree on `op` and on the fields the op code's row names decode alike. -/
def Obligations.DecodeReadsOnlyNamedFields : Prop :=
  ∀ r r' : Request, r.op = r'.op →
    (r.op.toNat ∈ [0x02, 0x03, 0x04, 0x05, 0x06, 0x07, 0x0C, 0x0D, 0x10, 0x11, 0x12, 0x21, 0x31, 0x32, 0x33] →
      r.idx = r'.idx) →
    (r.op.toNat ∈ [0x22, 0x30] → r.kind = r'.kind) →
    (r.op.toNat ∈ [0x03, 0x05, 0x09, 0x0B, 0x0D, 0x11, 0x13, 0x14, 0x22, 0x30, 0x32, 0x33, 0x40] →
      r.data = r'.data) →
    (r.op.toNat = 0x13 → r.data2 = r'.data2) → (r.op.toNat = 0x07 → r.vdata = r'.vdata) →
    Sys2Proof.decode r = Sys2Proof.decode r'

/-! ### Register files, program counters, host registers -/

/-- R170. -/
def Obligations.ReadGprAnswersTheRegister : Prop :=
  Encodes 0x02 (fun r => .readGpr r.idx) ∧
  ∀ (s : State) (idx : BitVec 12), s.hart.fatal = false →
    (idx = 0 → Completes (exec (.readGpr idx) s) s s.hart .ok 0 0) ∧
    (∀ i : Fin 31, idx.toNat = i.val + 1 → Completes (exec (.readGpr idx) s) s s.hart .ok s.hart.x[i] 0) ∧
    (31 < idx.toNat → Completes (exec (.readGpr idx) s) s s.hart .badOperand 0 0)

/-- R171: the write lands in its register alone; index 0 discards it. -/
def Obligations.WriteGprStoresVerbatim : Prop :=
  Encodes 0x03 (fun r => .writeGpr r.idx r.data) ∧
  ∀ (s : State) (idx : BitVec 12) (v : Word), s.hart.fatal = false →
    (idx = 0 → Completes (exec (.writeGpr idx v) s) s s.hart .ok 0 0) ∧
    (0 < idx.toNat → idx.toNat ≤ 31 → ∃ h, Completes (exec (.writeGpr idx v) s) s h .ok 0 0 ∧
      h = { s.hart with x := h.x } ∧
      ∀ j : RegIndex, h.readX j = if j.val = idx.toNat then v else s.hart.readX j) ∧
    (31 < idx.toNat → Completes (exec (.writeGpr idx v) s) s s.hart .badOperand 0 0)

/-- R172, R173: the FP file, `mstatus.FS` and `fcsr` untouched, whatever HAS_F is. -/
def Obligations.FprCommandsMoveSixtyFourBits : Prop :=
  Encodes 0x04 (fun r => .readFpr r.idx) ∧
  Encodes 0x05 (fun r => .writeFpr r.idx r.data) ∧
  ∀ (s : State) (idx : BitVec 12) (v : Word), s.hart.fatal = false →
    (∀ i : RegIndex, idx.toNat = i.val →
      Completes (exec (.readFpr idx) s) s s.hart .ok (s.hart.readF i) 0 ∧
      ∃ h, Completes (exec (.writeFpr idx v) s) s h .ok 0 0 ∧ h = { s.hart with f := h.f } ∧
        ∀ j : RegIndex, h.readF j = if j = i then v else s.hart.readF j) ∧
    (31 < idx.toNat → Completes (exec (.readFpr idx) s) s s.hart .badOperand 0 0 ∧
      Completes (exec (.writeFpr idx v) s) s s.hart .badOperand 0 0)

/-- R174, R175: the vector file; the value read is on `rvdata`, and all VLEN bits are written. -/
def Obligations.VrCommandsMoveVlenBits : Prop :=
  Encodes 0x06 (fun r => .readVr r.idx) ∧
  Encodes 0x07 (fun r => .writeVr r.idx r.vdata) ∧
  ∀ (s : State) (idx : BitVec 12) (v : VReg), s.hart.fatal = false →
    (∀ i : RegIndex, idx.toNat = i.val →
      Completes (exec (.readVr idx) s) s s.hart .ok 0 (s.hart.readV i) ∧
      (v < 2 ^ s.cfg.vlen → ∃ h, Completes (exec (.writeVr idx v) s) s h .ok 0 0 ∧ h = { s.hart with v := h.v } ∧
        ∀ j : RegIndex, h.readV j = if j = i then v else s.hart.readV j)) ∧
    (31 < idx.toNat → Completes (exec (.readVr idx) s) s s.hart .badOperand 0 0 ∧
      Completes (exec (.writeVr idx v) s) s s.hart .badOperand 0 0)

/-- The model's own convention on the width of the port (notes/assumptions/6.md): WRITE_VR takes the low VLEN bits of
`vdata`, for every value of it. -/
def Obligations.WriteVrTakesTheLowVlenBits : Prop :=
  ∀ (s : State) (idx : BitVec 12) (v : VReg) (i : RegIndex), s.hart.fatal = false → idx.toNat = i.val →
    ∃ h, Completes (exec (.writeVr idx v) s) s h .ok 0 0 ∧ h.readV i = v % 2 ^ s.cfg.vlen ∧
      h.readV i < 2 ^ s.cfg.vlen

/-- R176-R179: the four program-counter commands, with no alignment check. -/
def Obligations.ProgramCounterCommands : Prop :=
  Encodes 0x08 (fun _ => .readPc) ∧
  Encodes 0x09 (fun r => .writePc r.data) ∧
  Encodes 0x0A (fun _ => .readNextPc) ∧
  Encodes 0x0B (fun r => .writeNextPc r.data) ∧
  ∀ (s : State) (v : Word), s.hart.fatal = false →
    Completes (exec .readPc s) s s.hart .ok s.hart.pc 0 ∧
    Completes (exec (.writePc v) s) s { s.hart with pc := v } .ok 0 0 ∧
    Completes (exec .readNextPc s) s s.hart .ok s.hart.nextPC 0 ∧
    Completes (exec (.writeNextPc v) s) s { s.hart with nextPC := v } .ok 0 0

/-- R180, R181: `tohost` is select 0 and `fromhost` select 1; the block acts on neither. -/
def Obligations.HostRegisterCommands : Prop :=
  Encodes 0x0C (fun r => .readHost r.idx) ∧
  Encodes 0x0D (fun r => .writeHost r.idx r.data) ∧
  ∀ (s : State) (idx : BitVec 12) (v : Word), s.hart.fatal = false →
    (idx = 0 → Completes (exec (.readHost idx) s) s s.hart .ok s.hart.tohost 0 ∧
      Completes (exec (.writeHost idx v) s) s { s.hart with tohost := v } .ok 0 0) ∧
    (idx = 1 → Completes (exec (.readHost idx) s) s s.hart .ok s.hart.fromhost 0 ∧
      Completes (exec (.writeHost idx v) s) s { s.hart with fromhost := v } .ok 0 0) ∧
    (1 < idx.toNat → Completes (exec (.readHost idx) s) s s.hart .badOperand 0 0 ∧
      Completes (exec (.writeHost idx v) s) s s.hart .badOperand 0 0)

/-- R182: index 0 reads zero before and after any write to it; a value written to another index is read back; and a
write to one index changes what no other index reads. -/
def Obligations.RegisterFileLaws : Prop :=
  ∀ (s : State) (i j : BitVec 12) (v : Word), s.hart.fatal = false → i.toNat ≤ 31 → j.toNat ≤ 31 →
    ∃ t, exec (.writeGpr i v) s = .next t ∧
      Completes (exec (.readGpr 0) s) s s.hart .ok 0 0 ∧ Completes (exec (.readGpr 0) t) t t.hart .ok 0 0 ∧
      (i ≠ 0 → Completes (exec (.readGpr i) t) t t.hart .ok v 0) ∧
      (j ≠ i → ∃ w, Completes (exec (.readGpr j) s) s s.hart .ok w 0 ∧
        Completes (exec (.readGpr j) t) t t.hart .ok w 0)

/-! ### The CSR file -/

/-- R30: the CSRs that exist, row by row, and no other number. -/
def Obligations.CsrExistenceTable : Prop :=
  ∀ (cfg : Config) (id : BitVec 12), csrExists cfg id = true ↔
    (id.toNat ∈ [0x001, 0x002, 0x003] ∧ cfg.hasF = true) ∨
    (id.toNat ∈ [0x008, 0x009, 0x00A, 0x00F, 0xC20, 0xC21, 0xC22] ∧ cfg.hasV = true) ∨
    (id.toNat ∈ [0x100, 0x104, 0x105, 0x106, 0x140, 0x141, 0x142, 0x143, 0x144, 0x302, 0x303] ∧ cfg.hasS = true) ∨
    (id.toNat = 0x306 ∧ cfg.hasU = true) ∨
    id.toNat ∈ [0x300, 0x301, 0x304, 0x305, 0x340, 0x341, 0x342, 0x343, 0x344, 0xB00, 0xB02, 0xC00, 0xC02,
      0xF11, 0xF12, 0xF13, 0xF14] ∨
    (∃ n, n < 16 ∧ id.toNat = 0x3A0 + n ∧ n % 2 = 0 ∧ 4 * n < cfg.pmpCount.toNat) ∨
    (∃ i, i < 64 ∧ id.toNat = 0x3B0 + i ∧ i < cfg.pmpCount.toNat)

/-- R202, R203: IS_CSR_DEFINED answers 1 exactly when the CSR exists and the level is at least `id[9:8]`. -/
def Obligations.IsCsrDefinedAnswersVisibility : Prop :=
  Encodes 0x12 (fun r => .isCsrDefined r.idx) ∧
  ∀ (s : State) (id : BitVec 12), s.hart.fatal = false →
    (csrExists s.cfg id = true ∧ id.toNat / 256 % 4 ≤ s.hart.priv.enc.toNat →
      Completes (exec (.isCsrDefined id) s) s s.hart .ok 1 0) ∧
    (¬ (csrExists s.cfg id = true ∧ id.toNat / 256 % 4 ≤ s.hart.priv.enc.toNat) →
      Completes (exec (.isCsrDefined id) s) s s.hart .ok 0 0)

/-- R222, R205: what is not defined is rejected by the read and the write and reported by the query, with no change;
what is defined is read with OK. -/
def Obligations.UndefinedCsrIsRejected : Prop :=
  ∀ (s : State) (id : BitVec 12) (v : Word), s.hart.fatal = false →
    (csrDefined s.cfg s.hart.priv id = false →
      Completes (exec (.readCsr id) s) s s.hart .csrUndefined 0 0 ∧
      Completes (exec (.writeCsr id v) s) s s.hart .csrUndefined 0 0 ∧
      Completes (exec (.isCsrDefined id) s) s s.hart .ok 0 0) ∧
    (csrDefined s.cfg s.hart.priv id = true → ∃ c, c.number = id ∧
      Completes (exec (.readCsr id) s) s s.hart .ok (csrView s.cfg s.hart c) 0)

/-- R200, R204: what READ_CSR answers, row by row. -/
def Obligations.ReadCsrAnswersTheTable : Prop :=
  Encodes 0x10 (fun r => .readCsr r.idx) ∧
  ∀ s : State, s.hart.fatal = false →
    (∀ id : BitVec 12, csrDefined s.cfg s.hart.priv id = false →
      Completes (exec (.readCsr id) s) s s.hart .csrUndefined 0 0) ∧
    (∀ row ∈ [(0x001#12, (s.hart.csr.fcsr.extractLsb' 0 5).setWidth 64),
        (0x002, (s.hart.csr.fcsr.extractLsb' 5 3).setWidth 64), (0x003, s.hart.csr.fcsr.setWidth 64),
        (0x008, s.hart.csr.vstart.setWidth 64), (0x009, s.hart.csr.vxsat.setWidth 64),
        (0x00A, s.hart.csr.vxrm.setWidth 64),
        (0x00F, (s.hart.csr.vxrm.setWidth 64 <<< 1) ||| s.hart.csr.vxsat.setWidth 64)] ++
      [(0x100#12, mstatusRead s.cfg s.hart.csr.mstatus &&& 0x80000003000DE762#64),
        (0x104, s.hart.csr.mie &&& s.hart.csr.mideleg), (0x105, s.hart.csr.stvec), (0x106, s.hart.csr.scounteren),
        (0x140, s.hart.csr.sscratch), (0x141, s.hart.csr.sepc &&& (if s.cfg.hasC then ~~~1#64 else ~~~3#64)),
        (0x142, s.hart.csr.scause), (0x143, s.hart.csr.stval), (0x144, s.hart.csr.mip &&& s.hart.csr.mideleg)] ++
      [(0x300#12, mstatusRead s.cfg s.hart.csr.mstatus), (0x301, (2#64 <<< 62) ||| s.cfg.misaExt.setWidth 64),
        (0x302, s.hart.csr.medeleg), (0x303, s.hart.csr.mideleg), (0x304, s.hart.csr.mie), (0x305, s.hart.csr.mtvec),
        (0x306, s.hart.csr.mcounteren), (0x340, s.hart.csr.mscratch),
        (0x341, s.hart.csr.mepc &&& (if s.cfg.hasC then ~~~1#64 else ~~~3#64)), (0x342, s.hart.csr.mcause),
        (0x343, s.hart.csr.mtval), (0x344, s.hart.csr.mip)] ++
      [(0xB00#12, s.hart.csr.mcycle), (0xB02, s.hart.csr.minstret), (0xC00, s.hart.csr.mcycle),
        (0xC02, s.hart.csr.minstret), (0xC20, s.hart.csr.vl), (0xC21, s.hart.csr.vtype),
        (0xC22, BitVec.ofNat 64 (s.cfg.vlen / 8)), (0xF11, s.cfg.mvendorid &&& 0xFFFFFFFF#64),
        (0xF12, s.cfg.marchid), (0xF13, s.cfg.mimpid), (0xF14, s.cfg.mhartid)],
      csrDefined s.cfg s.hart.priv row.1 = true → Completes (exec (.readCsr row.1) s) s s.hart .ok row.2 0) ∧
    (∀ n : Nat, n < 16 → csrDefined s.cfg s.hart.priv (BitVec.ofNat 12 (0x3A0 + n)) = true → ∃ w : Word,
      Completes (exec (.readCsr (BitVec.ofNat 12 (0x3A0 + n))) s) s s.hart .ok w 0 ∧
      ∀ k, k < 8 → w.extractLsb' (8 * k) 8 = s.hart.cfgByte (4 * n + k)) ∧
    (∀ i : Nat, i < 64 → csrDefined s.cfg s.hart.priv (BitVec.ofNat 12 (0x3B0 + i)) = true →
      Completes (exec (.readCsr (BitVec.ofNat 12 (0x3B0 + i))) s) s s.hart .ok ((s.hart.addrField i).setWidth 64) 0)

/-- R33 over R32's field table, bit by bit: what a read of `mstatus` shows. -/
def Obligations.MstatusReadValue : Prop :=
  ∀ (cfg : Config) (s : Word) (j : Nat), j < 64 →
    (mstatusRead cfg s).getLsbD j =
      if j = 11 ∨ j = 12 then !cfg.hasU || s.getLsbD j
      else if j = 33 then cfg.hasU
      else if j = 35 then cfg.hasS
      else if j = 63 then
        (cfg.hasF && s.getLsbD 13 && s.getLsbD 14) || (cfg.hasV && s.getLsbD 9 && s.getLsbD 10)
      else rwBit cfg j && s.getLsbD j

/-- R201: a write of a defined CSR in the read-only space (`id[11:10] = 0b11`) answers CSR_READ_ONLY and changes
nothing; of any other defined CSR it answers OK; of an undefined one CSR_UNDEFINED, and nothing changes. -/
def Obligations.WriteCsrStatuses : Prop :=
  Encodes 0x11 (fun r => .writeCsr r.idx r.data) ∧
  ∀ (s : State) (id : BitVec 12) (v : Word), s.hart.fatal = false →
    (csrDefined s.cfg s.hart.priv id = false → Completes (exec (.writeCsr id v) s) s s.hart .csrUndefined 0 0) ∧
    (csrDefined s.cfg s.hart.priv id = true → id.toNat / 1024 = 3 →
      Completes (exec (.writeCsr id v) s) s s.hart .csrReadOnly 0 0) ∧
    (csrDefined s.cfg s.hart.priv id = true → id.toNat / 1024 ≠ 3 → ∃ c, c.number = id ∧
      Completes (exec (.writeCsr id v) s) s (csrWrite s.cfg s.hart c v) .ok 0 0)

/-- R207, R208, R209: the writes of `mstatus`, `sstatus` and `misa`, bit by bit. -/
def Obligations.StatusWritesAreLegalized : Prop :=
  ∀ (s : State) (v : Word), s.hart.fatal = false →
    (csrDefined s.cfg s.hart.priv 0x300 = true → ∃ m : Word,
      Completes (exec (.writeCsr 0x300 v) s) s { s.hart with csr := { s.hart.csr with mstatus := m } } .ok 0 0 ∧
      (∀ j, j < 64 → j ≠ 11 → j ≠ 12 →
        m.getLsbD j = if rwBit s.cfg j then v.getLsbD j else s.hart.csr.mstatus.getLsbD j) ∧
      m.extractLsb' 11 2 =
        if v.extractLsb' 11 2 = 3#2 ∨ (v.extractLsb' 11 2 = 1#2 ∧ s.cfg.hasS = true) ∨
            (v.extractLsb' 11 2 = 0#2 ∧ s.cfg.hasU = true)
        then v.extractLsb' 11 2 else s.hart.csr.mstatus.extractLsb' 11 2) ∧
    (csrDefined s.cfg s.hart.priv 0x100 = true → ∃ m : Word,
      Completes (exec (.writeCsr 0x100 v) s) s { s.hart with csr := { s.hart.csr with mstatus := m } } .ok 0 0 ∧
      ∀ j, j < 64 →
        m.getLsbD j = if j ∈ [1, 5, 8, 9, 10, 13, 14, 18, 19] ∧ rwBit s.cfg j = true then v.getLsbD j
          else s.hart.csr.mstatus.getLsbD j) ∧
    (csrDefined s.cfg s.hart.priv 0x301 = true → Completes (exec (.writeCsr 0x301 v) s) s s.hart .ok 0 0)

/-- R210-R213: the writes of the delegation masks, and of the interrupt-enable and pending registers and their views. -/
def Obligations.InterruptAndDelegationWrites : Prop :=
  ∀ (s : State) (v : Word), s.hart.fatal = false →
    (csrDefined s.cfg s.hart.priv 0x302 = true → Completes (exec (.writeCsr 0x302 v) s) s
      { s.hart with csr := { s.hart.csr with medeleg := v &&& 0xB3FF#64 } } .ok 0 0) ∧
    (csrDefined s.cfg s.hart.priv 0x303 = true → Completes (exec (.writeCsr 0x303 v) s) s
      { s.hart with csr := { s.hart.csr with mideleg := v &&& 0x222#64 } } .ok 0 0) ∧
    (csrDefined s.cfg s.hart.priv 0x304 = true → Completes (exec (.writeCsr 0x304 v) s) s
      { s.hart with csr := { s.hart.csr with mie := v &&& (if s.cfg.hasS then 0xAAA#64 else 0x888#64) } } .ok 0 0) ∧
    (csrDefined s.cfg s.hart.priv 0x344 = true → Completes (exec (.writeCsr 0x344 v) s) s
      { s.hart with csr := { s.hart.csr with
          mip := if s.cfg.hasS then (s.hart.csr.mip &&& ~~~0x222#64) ||| (v &&& 0x222#64) else s.hart.csr.mip } } .ok 0 0) ∧
    (csrDefined s.cfg s.hart.priv 0x104 = true → Completes (exec (.writeCsr 0x104 v) s) s
      { s.hart with csr := { s.hart.csr with
          mie := (s.hart.csr.mie &&& ~~~(s.hart.csr.mideleg &&& 0x222#64)) |||
            (v &&& (s.hart.csr.mideleg &&& 0x222#64)) } } .ok 0 0) ∧
    (csrDefined s.cfg s.hart.priv 0x144 = true → Completes (exec (.writeCsr 0x144 v) s) s
      { s.hart with csr := { s.hart.csr with
          mip := (s.hart.csr.mip &&& ~~~(s.hart.csr.mideleg &&& 0x2#64)) |||
            (v &&& (s.hart.csr.mideleg &&& 0x2#64)) } } .ok 0 0)

/-- R214, R215: the writes of the trap vectors and the exception PCs. -/
def Obligations.TrapVectorAndEpcWrites : Prop :=
  ∀ (s : State) (v : Word), s.hart.fatal = false →
    (csrDefined s.cfg s.hart.priv 0x305 = true → ∃ w : Word,
      Completes (exec (.writeCsr 0x305 v) s) s { s.hart with csr := { s.hart.csr with mtvec := w } } .ok 0 0 ∧
      w.extractLsb' 2 62 = v.extractLsb' 2 62 ∧
      w.extractLsb' 0 2 = if v.extractLsb' 0 2 = 0#2 ∨ v.extractLsb' 0 2 = 1#2 then v.extractLsb' 0 2
        else s.hart.csr.mtvec.extractLsb' 0 2) ∧
    (csrDefined s.cfg s.hart.priv 0x105 = true → ∃ w : Word,
      Completes (exec (.writeCsr 0x105 v) s) s { s.hart with csr := { s.hart.csr with stvec := w } } .ok 0 0 ∧
      w.extractLsb' 2 62 = v.extractLsb' 2 62 ∧
      w.extractLsb' 0 2 = if v.extractLsb' 0 2 = 0#2 ∨ v.extractLsb' 0 2 = 1#2 then v.extractLsb' 0 2
        else s.hart.csr.stvec.extractLsb' 0 2) ∧
    (csrDefined s.cfg s.hart.priv 0x341 = true → Completes (exec (.writeCsr 0x341 v) s) s
      { s.hart with csr := { s.hart.csr with mepc := v &&& (if s.cfg.hasC then ~~~1#64 else ~~~3#64) } } .ok 0 0) ∧
    (csrDefined s.cfg s.hart.priv 0x141 = true → Completes (exec (.writeCsr 0x141 v) s) s
      { s.hart with csr := { s.hart.csr with sepc := v &&& (if s.cfg.hasC then ~~~1#64 else ~~~3#64) } } .ok 0 0)

/-- R216, R217: the full-width registers store all 64 bits, the counter enables bits 2:0. -/
def Obligations.FullWidthAndCounterEnableWrites : Prop :=
  ∀ (s : State) (v : Word), s.hart.fatal = false →
    (∀ row ∈ [(0x340#12, { s.hart.csr with mscratch := v }), (0x140, { s.hart.csr with sscratch := v }),
        (0x342, { s.hart.csr with mcause := v }), (0x142, { s.hart.csr with scause := v }),
        (0x343, { s.hart.csr with mtval := v }), (0x143, { s.hart.csr with stval := v }),
        (0xB00, { s.hart.csr with mcycle := v }), (0xB02, { s.hart.csr with minstret := v }),
        (0x306, { s.hart.csr with mcounteren := v &&& 7#64 }), (0x106, { s.hart.csr with scounteren := v &&& 7#64 })],
      csrDefined s.cfg s.hart.priv row.1 = true →
        Completes (exec (.writeCsr row.1 v) s) s { s.hart with csr := row.2 } .ok 0 0)

/-- R218, R219: the writes of the FP and vector CSRs: the fields each takes from the value, and the others kept. -/
def Obligations.FpAndVectorCsrWrites : Prop :=
  ∀ (s : State) (v : Word), s.hart.fatal = false →
    (∀ row ∈ [(0x001#12, { s.hart.csr with fcsr := (s.hart.csr.fcsr &&& 0xE0#8) ||| (v.setWidth 8 &&& 0x1F#8) }),
        (0x002, { s.hart.csr with fcsr := (v.setWidth 8 <<< 5) ||| (s.hart.csr.fcsr &&& 0x1F#8) }),
        (0x003, { s.hart.csr with fcsr := v.setWidth 8 }),
        (0x008, { s.hart.csr with vstart := BitVec.ofNat 16 (v.toNat % s.cfg.vlen) }),
        (0x009, { s.hart.csr with vxsat := v.setWidth 1 }), (0x00A, { s.hart.csr with vxrm := v.setWidth 2 }),
        (0x00F, { s.hart.csr with vxrm := (v >>> 1).setWidth 2, vxsat := v.setWidth 1 })],
      csrDefined s.cfg s.hart.priv row.1 = true →
        Completes (exec (.writeCsr row.1 v) s) s { s.hart with csr := row.2 } .ok 0 0)

/-- R220, R221: the platform commands, at every level and under every configuration. -/
def Obligations.PlatformCommands : Prop :=
  Encodes 0x13 (fun r => .setVconfig r.data r.data2) ∧
  Encodes 0x14 (fun r => .setMipPlatform r.data) ∧
  ∀ (s : State) (a b : Word), s.hart.fatal = false →
    Completes (exec (.setVconfig a b) s) s { s.hart with csr := { s.hart.csr with vl := a, vtype := b } } .ok 0 0 ∧
    ∃ m : Word, Completes (exec (.setMipPlatform a) s) s { s.hart with csr := { s.hart.csr with mip := m } } .ok 0 0 ∧
      ∀ j, j < 64 → m.getLsbD j = if j = 3 ∨ j = 7 ∨ j = 11 then a.getLsbD j else s.hart.csr.mip.getLsbD j

/-! ### Privilege and trap entry -/

/-- R260, R261: the privilege commands; SET_PRIV checks no level against the configuration and changes nothing else. -/
def Obligations.PrivilegeCommands : Prop :=
  Encodes 0x20 (fun _ => .getPriv) ∧
  Encodes 0x21 (fun r => .setPriv r.idx) ∧
  ∀ (s : State) (idx : BitVec 12), s.hart.fatal = false →
    (s.hart.priv = .U → Completes (exec .getPriv s) s s.hart .ok 0 0) ∧
    (s.hart.priv = .S → Completes (exec .getPriv s) s s.hart .ok 1 0) ∧
    (s.hart.priv = .M → Completes (exec .getPriv s) s s.hart .ok 3 0) ∧
    (idx = 0 → Completes (exec (.setPriv idx) s) s { s.hart with priv := .U } .ok 0 0) ∧
    (idx = 1 → Completes (exec (.setPriv idx) s) s { s.hart with priv := .S } .ok 0 0) ∧
    (idx = 3 → Completes (exec (.setPriv idx) s) s { s.hart with priv := .M } .ok 0 0) ∧
    (idx.toNat = 2 ∨ 3 < idx.toNat → Completes (exec (.setPriv idx) s) s s.hart .badOperand 0 0)

/-- R262, R263, R264: INJECT_EXCEPTION. The trap goes to S exactly when S exists, the code is delegated and the level is
below M, else to M; what it writes at either target, and nothing else. -/
def Obligations.InjectExceptionEntersTheTrap : Prop :=
  Encodes 0x22 (fun r => .injectException r.kind r.data) ∧
  ∀ (s : State) (kind : BitVec 6) (v : Word), s.hart.fatal = false →
    (kind.toNat ≤ 15 →
      ¬ (s.cfg.hasS = true ∧ s.hart.csr.medeleg.getLsbD kind.toNat = true ∧ s.hart.priv ≠ .M) → ∃ m : Word,
      Completes (exec (.injectException kind v) s) s
        { s.hart with
          csr := { s.hart.csr with mepc := s.hart.pc, mcause := kind.setWidth 64, mtval := v, mstatus := m }
          priv := .M
          nextPC := s.hart.csr.mtvec &&& ~~~3#64 } .ok 3 0 ∧
      m.getLsbD 7 = s.hart.csr.mstatus.getLsbD 3 ∧ m.getLsbD 3 = false ∧
      m.extractLsb' 11 2 = s.hart.priv.enc ∧
      ∀ j, j ≠ 3 → j ≠ 7 → j ≠ 11 → j ≠ 12 → m.getLsbD j = s.hart.csr.mstatus.getLsbD j) ∧
    (kind.toNat ≤ 15 → s.cfg.hasS = true → s.hart.csr.medeleg.getLsbD kind.toNat = true → s.hart.priv ≠ .M →
      ∃ m : Word,
      Completes (exec (.injectException kind v) s) s
        { s.hart with
          csr := { s.hart.csr with sepc := s.hart.pc, scause := kind.setWidth 64, stval := v, mstatus := m }
          priv := .S
          nextPC := s.hart.csr.stvec &&& ~~~3#64 } .ok 1 0 ∧
      m.getLsbD 5 = s.hart.csr.mstatus.getLsbD 1 ∧ m.getLsbD 1 = false ∧
      m.getLsbD 8 = (s.hart.priv != .U) ∧
      ∀ j, j ≠ 1 → j ≠ 5 → j ≠ 8 → m.getLsbD j = s.hart.csr.mstatus.getLsbD j) ∧
    (15 < kind.toNat → Completes (exec (.injectException kind v) s) s s.hart .badOperand 0 0)

/-- R381: every code is accepted, and codes 10, 11 and 14 are taken to M from every level, where `medeleg` holds only its
writable bits (an invariant of the block: `InvariantKeptByEveryStep`). -/
def Obligations.UndelegatableCodesTrapToMachine : Prop :=
  (∀ (s : State) (kind : BitVec 6) (v : Word), s.hart.fatal = false → kind.toNat ≤ 15 →
    ∃ h, Completes (exec (.injectException kind v) s) s h .ok (h.priv.enc.setWidth 64) 0 ∧
      (h.priv = .M ∨ h.priv = .S)) ∧
  (∀ (s : State) (kind : BitVec 6) (v : Word), s.hart.fatal = false → s.hart.csr.medeleg &&& ~~~0xB3FF#64 = 0 →
    kind.toNat ∈ [10, 11, 14] →
    ∃ h, Completes (exec (.injectException kind v) s) s h .ok 3 0 ∧ h.priv = .M ∧ h.csr.mepc = s.hart.pc ∧
      h.csr.sepc = s.hart.csr.sepc)

/-- R22, R23, R25, R27, R28, R29, R55, R56: the commands that may change each field of the state record outside the CSR
file and the PMP; RESET may change all of them. -/
def Obligations.HartFieldsHaveOnlyTheirWriters : Prop :=
  ∀ (i : Instr) (s t : State), exec i s = .next t → i ≠ .reset →
    (t.hart.pc ≠ s.hart.pc → ∃ v, i = .writePc v) ∧
    (t.hart.nextPC ≠ s.hart.nextPC → (∃ v, i = .writeNextPc v) ∨ ∃ k v, i = .injectException k v) ∧
    (t.hart.x ≠ s.hart.x → ∃ idx v, i = .writeGpr idx v) ∧
    (t.hart.f ≠ s.hart.f → ∃ idx v, i = .writeFpr idx v) ∧
    (t.hart.v ≠ s.hart.v → ∃ idx v, i = .writeVr idx v) ∧
    (t.hart.priv ≠ s.hart.priv → (∃ idx, i = .setPriv idx) ∨ ∃ k v, i = .injectException k v) ∧
    (t.hart.tohost ≠ s.hart.tohost → ∃ v, i = .writeHost 0 v) ∧
    (t.hart.fromhost ≠ s.hart.fromhost → ∃ v, i = .writeHost 1 v) ∧
    (t.hart.fatal ≠ s.hart.fatal → t.hart.fatal = true ∧
      ((∃ idx, i = .getPmpaddr idx) ∨ (∃ idx v, i = .setPmpaddr idx v) ∨ ∃ idx v, i = .setPmpcfg idx v))

/-- R31's "written by" column, with R47 and R58: the commands that may change each storage field of the CSR file; RESET
may change all of them. -/
def Obligations.CsrStorageHasOnlyItsWriters : Prop :=
  ∀ (i : Instr) (s t : State), exec i s = .next t → i ≠ .reset →
    let k := s.hart.csr
    let k' := t.hart.csr
    let wrote (ids : List (BitVec 12)) : Prop := ∃ id v, i = .writeCsr id v ∧ id ∈ ids
    let trap : Prop := ∃ c v, i = .injectException c v
    (k'.mstatus ≠ k.mstatus → wrote [0x300, 0x100] ∨ trap) ∧
    (k'.medeleg ≠ k.medeleg → wrote [0x302]) ∧ (k'.mideleg ≠ k.mideleg → wrote [0x303]) ∧
    (k'.mie ≠ k.mie → wrote [0x304, 0x104]) ∧
    (k'.mip ≠ k.mip → wrote [0x344, 0x144] ∨ ∃ v, i = .setMipPlatform v) ∧
    (k'.mtvec ≠ k.mtvec → wrote [0x305]) ∧ (k'.stvec ≠ k.stvec → wrote [0x105]) ∧
    (k'.mcounteren ≠ k.mcounteren → wrote [0x306]) ∧ (k'.scounteren ≠ k.scounteren → wrote [0x106]) ∧
    (k'.mscratch ≠ k.mscratch → wrote [0x340]) ∧ (k'.sscratch ≠ k.sscratch → wrote [0x140]) ∧
    (k'.mepc ≠ k.mepc → wrote [0x341] ∨ trap) ∧ (k'.sepc ≠ k.sepc → wrote [0x141] ∨ trap) ∧
    (k'.mcause ≠ k.mcause → wrote [0x342] ∨ trap) ∧ (k'.scause ≠ k.scause → wrote [0x142] ∨ trap) ∧
    (k'.mtval ≠ k.mtval → wrote [0x343] ∨ trap) ∧ (k'.stval ≠ k.stval → wrote [0x143] ∨ trap) ∧
    (k'.mcycle ≠ k.mcycle → wrote [0xB00]) ∧ (k'.minstret ≠ k.minstret → wrote [0xB02]) ∧
    (k'.fcsr ≠ k.fcsr → wrote [0x001, 0x002, 0x003]) ∧ (k'.vstart ≠ k.vstart → wrote [0x008]) ∧
    (k'.vxsat ≠ k.vxsat → wrote [0x009, 0x00F]) ∧ (k'.vxrm ≠ k.vxrm → wrote [0x00A, 0x00F]) ∧
    (k'.vl ≠ k.vl ∨ k'.vtype ≠ k.vtype → ∃ a b, i = .setVconfig a b)

/-- R38, R384: MSIP, MTIP and MEIP change by SET_MIP_PLATFORM and RESET only; SSIP, STIP and SEIP by a CSR write and
RESET only, where `mideleg` is unconstrained. -/
def Obligations.PendingBitsHaveTheirOwnWriters : Prop :=
  ∀ (i : Instr) (s t : State), exec i s = .next t → i ≠ .reset →
    (∀ j ∈ [3, 7, 11], t.hart.csr.mip.getLsbD j ≠ s.hart.csr.mip.getLsbD j → ∃ v, i = .setMipPlatform v) ∧
    (∀ j, j ∉ [3, 7, 11] → t.hart.csr.mip.getLsbD j ≠ s.hart.csr.mip.getLsbD j →
      j ∈ [1, 5, 9] ∧ ((∃ v, i = .writeCsr 0x344 v) ∨ (j = 1 ∧ ∃ v, i = .writeCsr 0x144 v)))

/-- R268: apart from the CSR commands, GET_PRIV, INJECT_EXCEPTION and CHECK_ACCESS, no command's result or effect
depends on the privilege level: run at another level, it gives the same response and the same hart, the level apart. -/
def Obligations.OtherCommandsDoNotReadThePrivilege : Prop :=
  ∀ (i : Instr) (s t : State) (p : Priv),
    (∀ id, i ≠ .readCsr id) → (∀ id v, i ≠ .writeCsr id v) → (∀ id, i ≠ .isCsrDefined id) → i ≠ .getPriv →
    (∀ k v, i ≠ .injectException k v) → (∀ k a, i ≠ .checkAccess k a) →
    exec i s = .next t →
    ∃ u, exec i { s with hart := { s.hart with priv := p } } = .next u ∧ u.response = t.response ∧
      { u.hart with priv := t.hart.priv } = t.hart

/-! ### The PMP -/

/-- R291: the range of an entry by mode. For NAPOT, `n` is the number of trailing ones of the address field: the range is
the naturally aligned block of `2^(n+3)` bytes that holds it. -/
def Obligations.PmpRangeByMode : Prop :=
  ∀ (h : Hart) (i : Nat),
    ((h.cfgByte i).extractLsb' 3 2 = 0#2 → pmpRange h i = none) ∧
    ((h.cfgByte i).extractLsb' 3 2 = 1#2 →
      pmpRange h i = some (if i = 0 then 0 else (h.addrField (i - 1)).toNat * 4, (h.addrField i).toNat * 4)) ∧
    ((h.cfgByte i).extractLsb' 3 2 = 2#2 →
      pmpRange h i = some ((h.addrField i).toNat * 4, (h.addrField i).toNat * 4 + 4)) ∧
    ((h.cfgByte i).extractLsb' 3 2 = 3#2 → ∀ n : Nat,
      (h.addrField i).toNat % 2 ^ (n + 1) = 2 ^ n - 1 →
      pmpRange h i = some ((h.addrField i).toNat / 2 ^ (n + 1) * 2 ^ (n + 3),
        (h.addrField i).toNat / 2 ^ (n + 1) * 2 ^ (n + 3) + 2 ^ (n + 3)))

/-- R292: the classification of an access of `w` bytes, said of its bytes one by one: no match when none of them lies in
the range, a match when all do, a partial match otherwise. -/
def Obligations.PmpMatchIsByBytes : Prop :=
  ∀ (h : Hart) (i a w : Nat), 0 < w →
    (pmpRange h i = none → addrMatch h i a w = .noMatch) ∧
    (∀ lo hi, pmpRange h i = some (lo, hi) →
      (addrMatch h i a w = .noMatch ↔ ∀ b, a ≤ b → b < a + w → ¬ (lo ≤ b ∧ b < hi)) ∧
      (addrMatch h i a w = .fullMatch ↔ ∀ b, a ≤ b → b < a + w → (lo ≤ b ∧ b < hi)) ∧
      (addrMatch h i a w = .partialMatch ↔
        (∃ b, a ≤ b ∧ b < a + w ∧ lo ≤ b ∧ b < hi) ∧ ∃ b, a ≤ b ∧ b < a + w ∧ ¬ (lo ≤ b ∧ b < hi)))

/-- R290, R293-R296: CHECK_ACCESS. The lowest-numbered entry that matches any of the eight bytes decides; with none, M is
allowed and lower levels are denied; with no implemented entries everything is allowed. Nothing changes. -/
def Obligations.CheckAccessFirstMatchDecides : Prop :=
  Encodes 0x30 (fun r => .checkAccess r.kind r.data) ∧
  ∀ (s : State) (kind : BitVec 6) (a : Word), s.hart.fatal = false →
    (2 < kind.toNat → Completes (exec (.checkAccess kind a) s) s s.hart .badOperand 0 0) ∧
    ∀ (permBit : Nat) (fault : Word),
      (kind.toNat = 0 ∧ permBit = 0 ∧ fault = 0x45#64) ∨ (kind.toNat = 1 ∧ permBit = 1 ∧ fault = 0x47#64) ∨
        (kind.toNat = 2 ∧ permBit = 2 ∧ fault = 0x41#64) →
      (s.cfg.pmpCount.toNat = 0 → Completes (exec (.checkAccess kind a) s) s s.hart .ok 0 0) ∧
      (0 < s.cfg.pmpCount.toNat → (∀ i, i < s.cfg.pmpCount.toNat → addrMatch s.hart i a.toNat 8 = .noMatch) →
        Completes (exec (.checkAccess kind a) s) s s.hart .ok (if s.hart.priv = .M then 0 else fault) 0) ∧
      (∀ i, i < s.cfg.pmpCount.toNat → (∀ j, j < i → addrMatch s.hart j a.toNat 8 = .noMatch) →
        (addrMatch s.hart i a.toNat 8 = .partialMatch →
          Completes (exec (.checkAccess kind a) s) s s.hart .ok fault 0) ∧
        (addrMatch s.hart i a.toNat 8 = .fullMatch →
          Completes (exec (.checkAccess kind a) s) s s.hart .ok
            (if (s.hart.cfgByte i).getLsbD permBit = true ∨
                (s.hart.priv = .M ∧ (s.hart.cfgByte i).getLsbD 7 = false) then 0 else fault) 0))

/-- R303: the laws of the source's tests. With every implemented entry OFF, M may access everything and U and S nothing;
with one entry, a readable TOR entry, a read below M is allowed exactly when its eight bytes lie in the range. -/
def Obligations.PmpLawsOfTheSource : Prop :=
  (∀ (s : State) (kind : BitVec 6) (a : Word), s.hart.fatal = false → 0 < s.cfg.pmpCount.toNat → kind.toNat ≤ 2 →
    (∀ i, i < s.cfg.pmpCount.toNat → (s.hart.cfgByte i).extractLsb' 3 2 = 0#2) →
    (s.hart.priv = .M → Completes (exec (.checkAccess kind a) s) s s.hart .ok 0 0) ∧
    (s.hart.priv ≠ .M → kind = 0 → Completes (exec (.checkAccess kind a) s) s s.hart .ok 0x45 0) ∧
    (s.hart.priv ≠ .M → kind = 1 → Completes (exec (.checkAccess kind a) s) s s.hart .ok 0x47 0) ∧
    (s.hart.priv ≠ .M → kind = 2 → Completes (exec (.checkAccess kind a) s) s s.hart .ok 0x41 0)) ∧
  (∀ (s : State) (a : Word) (e : Nat), s.hart.fatal = false → s.hart.priv ≠ .M → e < s.cfg.pmpCount.toNat →
    (∀ i, i < s.cfg.pmpCount.toNat → i ≠ e → (s.hart.cfgByte i).extractLsb' 3 2 = 0#2) →
    (s.hart.cfgByte e).extractLsb' 3 2 = 1#2 → (s.hart.cfgByte e).getLsbD 0 = true →
    ∀ base top : Nat, base = (if e = 0 then 0 else (s.hart.addrField (e - 1)).toNat * 4) →
      top = (s.hart.addrField e).toNat * 4 →
      Completes (exec (.checkAccess 0 a) s) s s.hart .ok
        (if base ≤ a.toNat ∧ a.toNat + 8 ≤ top then 0 else 0x45) 0)

/-- R101: no entry matches an access at or above `2^57`, so the default decides it: allowed at M, and below M denied when
there are entries. -/
def Obligations.NoEntryReachesTwoToTheFiftySeven : Prop :=
  ∀ (s : State) (kind : BitVec 6) (a : Word), 2 ^ 57 ≤ a.toNat →
    (∀ i, addrMatch s.hart i a.toNat 8 = .noMatch) ∧
    (s.hart.fatal = false → kind.toNat ≤ 2 → s.hart.priv = .M →
      Completes (exec (.checkAccess kind a) s) s s.hart .ok 0 0) ∧
    (s.hart.fatal = false → kind.toNat ≤ 2 → s.hart.priv ≠ .M → 0 < s.cfg.pmpCount.toNat →
      ∃ c, c ≠ 0 ∧ Completes (exec (.checkAccess kind a) s) s s.hart .ok c 0)

/-- R297: what a software write makes of an entry's configuration byte, bit by bit; and no command but RESET changes a
locked byte. -/
def Obligations.PmpCfgByteLegalization : Prop :=
  (∀ (i : Instr) (s t : State) (k : Nat), exec i s = .next t → i ≠ .reset →
    (s.hart.cfgByte k).getLsbD 7 = true → t.hart.cfgByte k = s.hart.cfgByte k) ∧
  ∀ old b : BitVec 8,
    (old.getLsbD 7 = true → pmpWriteCfg old b = old) ∧
    (old.getLsbD 7 = false →
      (pmpWriteCfg old b).getLsbD 7 = b.getLsbD 7 ∧
      (pmpWriteCfg old b).extractLsb' 5 2 = 0#2 ∧
      (pmpWriteCfg old b).extractLsb' 3 2 = b.extractLsb' 3 2 ∧
      (pmpWriteCfg old b).extractLsb' 0 3 =
        if b.getLsbD 1 = true ∧ b.getLsbD 0 = false then 0#3 else b.extractLsb' 0 3)

/-- R298, R300, R301: the PMP address commands and the CSR write of a `pmpaddr`, with the lock of the entry and of a
locked TOR entry above it. -/
def Obligations.PmpAddressCommands : Prop :=
  Encodes 0x31 (fun r => .getPmpaddr r.idx) ∧
  Encodes 0x32 (fun r => .setPmpaddr r.idx r.data) ∧
  ∀ (s : State) (idx : BitVec 12) (v : Word), s.hart.fatal = false →
    (s.cfg.pmpCount.toNat ≤ idx.toNat →
      Completes (exec (.getPmpaddr idx) s) s { s.hart with fatal := true } .fatal 0 0 ∧
      Completes (exec (.setPmpaddr idx v) s) s { s.hart with fatal := true } .fatal 0 0) ∧
    (idx.toNat < s.cfg.pmpCount.toNat →
      Completes (exec (.getPmpaddr idx) s) s s.hart .ok ((s.hart.addrField idx.toNat).setWidth 64) 0 ∧
      ∃ h, Completes (exec (.setPmpaddr idx v) s) s h .ok 0 0 ∧
        (s.hart.priv = .M → Completes (exec (.writeCsr (BitVec.ofNat 12 (0x3B0 + idx.toNat)) v) s) s h .ok 0 0) ∧
        h = { s.hart with pmpaddr := h.pmpaddr } ∧
        ((s.hart.cfgByte idx.toNat).getLsbD 7 = true ∨
            (idx.toNat + 1 < s.cfg.pmpCount.toNat ∧ (s.hart.cfgByte (idx.toNat + 1)).getLsbD 7 = true ∧
              (s.hart.cfgByte (idx.toNat + 1)).extractLsb' 3 2 = 1#2) →
          h = s.hart) ∧
        (¬ ((s.hart.cfgByte idx.toNat).getLsbD 7 = true ∨
            (idx.toNat + 1 < s.cfg.pmpCount.toNat ∧ (s.hart.cfgByte (idx.toNat + 1)).getLsbD 7 = true ∧
              (s.hart.cfgByte (idx.toNat + 1)).extractLsb' 3 2 = 1#2)) →
          ∀ j, h.addrField j = if j = idx.toNat then v.setWidth 54 else s.hart.addrField j))

/-- R299, R302: SET_PMPCFG and the CSR write of a `pmpcfg`: each of the eight bytes on its own, and no other entry. -/
def Obligations.PmpConfigurationCommands : Prop :=
  Encodes 0x33 (fun r => .setPmpcfg r.idx r.data) ∧
  ∀ (s : State) (idx : BitVec 12) (v : Word), s.hart.fatal = false →
    (idx.toNat % 2 = 1 ∨ s.cfg.pmpCount.toNat ≤ 4 * idx.toNat →
      Completes (exec (.setPmpcfg idx v) s) s { s.hart with fatal := true } .fatal 0 0) ∧
    (idx.toNat % 2 = 0 → 4 * idx.toNat < s.cfg.pmpCount.toNat →
      ∃ h, Completes (exec (.setPmpcfg idx v) s) s h .ok 0 0 ∧
        (s.hart.priv = .M → Completes (exec (.writeCsr (BitVec.ofNat 12 (0x3A0 + idx.toNat)) v) s) s h .ok 0 0) ∧
        h = { s.hart with pmpcfg := h.pmpcfg } ∧
        (∀ k, k < 8 → h.cfgByte (4 * idx.toNat + k) =
          pmpWriteCfg (s.hart.cfgByte (4 * idx.toNat + k)) (v.extractLsb' (8 * k) 8)) ∧
        ∀ j, j < 4 * idx.toNat ∨ 4 * idx.toNat + 8 ≤ j → h.cfgByte j = s.hart.cfgByte j)

/-- R297, R298, R331: no step but RESET changes a locked entry's configuration byte or address, nor the address below a
locked TOR entry. -/
def Obligations.LockedPmpEntriesStayUntilReset : Prop :=
  ∀ (s t : State) (i : Nat), step s = .next t → (∀ r, s.requests.head? = some r → r.op ≠ 0x01#8) →
    i < s.cfg.pmpCount.toNat → (s.hart.cfgByte i).getLsbD 7 = true →
    t.hart.cfgByte i = s.hart.cfgByte i ∧ t.hart.addrField i = s.hart.addrField i ∧
    ((s.hart.cfgByte i).extractLsb' 3 2 = 1#2 → 0 < i → t.hart.addrField (i - 1) = s.hart.addrField (i - 1))

/-! ### Decode -/

/-- R330: DECODE answers the engine's result on `roper`, reads no state, and changes none; an illegal result carries the
word itself. -/
def Obligations.DecodeAnswersTheEngine : Prop :=
  Encodes 0x40 (fun r => .decode r.data) ∧
  ∀ (s : State) (w : BitVec 32), s.hart.fatal = false →
    (∃ t, exec (.decode (w.setWidth 64)) s = .next t ∧ t.hart = s.hart ∧ t.cfg = s.cfg ∧
      t.requests = s.requests ∧
      t.response = some { status := .ok, rdata := 0, rvdata := 0, roper := decodeFn w } ∧
      ∀ b, decodeFn w = .illegal b → b = w) ∧
    (∀ v : Word, v.extractLsb' 32 32 ≠ 0#32 → Completes (exec (.decode v) s) s s.hart .badOperand 0 0)

/-! ### The engine's returns from a trap -/

/-- R355, R263: a trap taken to M and the engine's MRET after it bring back the level and MIE of before, and the next PC
is the PC of the trap, masked as R42 says; the register files are as they were. -/
def Obligations.TrapThenMretRestores : Prop :=
  ∀ (s : State) (kind : BitVec 6) (v : Word) (w : BitVec 32), s.hart.fatal = false → s.cfg.legal = true →
    LevelExists s → kind.toNat ≤ 15 →
    ¬ (s.cfg.hasS = true ∧ s.hart.csr.medeleg.getLsbD kind.toNat = true ∧ s.hart.priv ≠ .M) →
    let u := mret w (issue (.injectException kind v) s)
    u.hart.priv = s.hart.priv ∧
    u.hart.csr.mstatus.getLsbD 3 = s.hart.csr.mstatus.getLsbD 3 ∧ u.hart.csr.mstatus.getLsbD 7 = true ∧
    u.hart.csr.mstatus.extractLsb' 11 2 = (if s.cfg.hasU then 0#2 else 3#2) ∧
    u.hart.nextPC = s.hart.pc &&& (if s.cfg.hasC then ~~~1#64 else ~~~3#64) ∧
    u.hart.pc = s.hart.pc ∧ u.hart.x = s.hart.x ∧ u.hart.f = s.hart.f ∧ u.hart.v = s.hart.v ∧
    u.hart.csr.mcause = kind.setWidth 64 ∧ u.hart.csr.mtval = v

/-- R356, R263: a trap taken to S and the engine's SRET after it, with TSR = 0, bring back the level and SIE of before,
and the next PC is the PC of the trap, masked as R42 says. -/
def Obligations.TrapThenSretRestores : Prop :=
  ∀ (s : State) (kind : BitVec 6) (v : Word) (w : BitVec 32), s.hart.fatal = false →
    kind.toNat ≤ 15 → s.cfg.hasS = true → s.hart.csr.medeleg.getLsbD kind.toNat = true → s.hart.priv ≠ .M →
    s.hart.csr.mstatus.getLsbD 22 = false →
    let u := sret w (issue (.injectException kind v) s)
    u.hart.priv = s.hart.priv ∧
    u.hart.csr.mstatus.getLsbD 1 = s.hart.csr.mstatus.getLsbD 1 ∧ u.hart.csr.mstatus.getLsbD 5 = true ∧
    u.hart.csr.mstatus.getLsbD 8 = false ∧
    u.hart.nextPC = s.hart.pc &&& (if s.cfg.hasC then ~~~1#64 else ~~~3#64) ∧
    u.hart.pc = s.hart.pc ∧ u.hart.x = s.hart.x ∧ u.hart.f = s.hart.f ∧ u.hart.v = s.hart.v ∧
    u.hart.csr.scause = kind.setWidth 64 ∧ u.hart.csr.stval = v

/-- R146, R263: the pseudo-command STEP after a trap puts `pc` at the handler's BASE. -/
def Obligations.StepAfterTrapEntersTheHandler : Prop :=
  ∀ (s : State) (kind : BitVec 6) (v : Word), s.hart.fatal = false → kind.toNat ≤ 15 →
    let t := issue (.injectException kind v) s
    let u := pseudoStep t
    u.hart = { t.hart with pc := t.hart.nextPC } ∧
    u.hart.pc = (if t.hart.priv = .M then s.hart.csr.mtvec else s.hart.csr.stvec) &&& ~~~3#64

/-! ### The engine's other sequences (informative in the spec: notes/assumptions/15.md) -/

/-- R357: dirtying FS (or VS) leaves that field 3 and SD 1, changes no other bit of `mstatus` as it reads, and nothing
else; without the unit the field reads 0 and stays so. -/
def Obligations.DirtyingSetsOneFieldOfMstatus : Prop :=
  ∀ s : State, s.hart.fatal = false →
    ∀ d ∈ [(dirtyFs s, 13, s.cfg.hasF), (dirtyVs s, 9, s.cfg.hasV)],
      let u := d.1
      let m := mstatusRead s.cfg s.hart.csr.mstatus
      let m' := mstatusRead u.cfg u.hart.csr.mstatus
      u.cfg = s.cfg ∧ u.hart = { s.hart with csr := { s.hart.csr with mstatus := u.hart.csr.mstatus } } ∧
      (if d.2.2 then m'.extractLsb' d.2.1 2 = 3#2 ∧ m'.getLsbD 63 = true else m' = m) ∧
      ∀ j, j ≠ d.2.1 → j ≠ d.2.1 + 1 → j ≠ 63 → m'.getLsbD j = m.getLsbD j

/-- R357: an FP or vector instruction with FS = 0 or VS = 0 traps with code 2 and its word; with its units on, a write of
an FP register, `fflags`, `frm` or `fcsr` is performed and leaves FS = 3, a write of a vector register or a vector CSR is
performed and leaves VS = 3, and any other write is performed alone. -/
def Obligations.FpAndVectorInstructionsNeedAndDirtyTheirUnit : Prop :=
  ∀ (s : State) (u : UnitUse) (w : BitVec 32), s.hart.fatal = false →
    (∀ acts, UnitOff s u acts →
      (executeOp (.compute u acts) w s).hart = (issue (.injectException 2 (w.setWidth 64)) s).hart) ∧
    (∀ e : EngineWrite, ¬ UnitOff s u [.write e] →
      let t := executeOp (.compute u [.write e]) w s
      let d := issue e.command s
      (e.dirtiesFs = true ∨ e.dirtiesVs = true →
        t.hart = { d.hart with csr := { d.hart.csr with mstatus := t.hart.csr.mstatus } }) ∧
      (e.dirtiesFs = true → t.hart.csr.mstatus.extractLsb' 13 2 = 3#2) ∧
      (e.dirtiesVs = true → t.hart.csr.mstatus.extractLsb' 9 2 = 3#2) ∧
      (e.dirtiesFs = false → e.dirtiesVs = false → t.hart = d.hart))

/-- R362, R358: a load or store traps with 4 or 6 only at an address that is no multiple of its size, and only if the
engine chooses so; otherwise the PMP's answer for its kind, at the level R358 gives, decides: the engine goes on with
nothing changed, or takes the access fault with the address as its trap value. -/
def Obligations.LoadStoreChecks : Prop :=
  ∀ (s : State) (d : DataAccess) (p : Priv), s.hart.fatal = false → DataLevel s p →
    let r := loadStoreCheck d s
    let kind := match d.kind with | .load => AccessKind.read | .store => AccessKind.write
    if d.addr.toNat % d.size.bytes ≠ 0 ∧ d.trapsMisaligned = true then
      r.1 = false ∧
      r.2.hart = (issue (.injectException (match d.kind with | .load => 4 | .store => 6) d.addr) s).hart
    else if pmpCheck s.cfg s.hart d.addr.toNat 8 kind p = none then r.1 = true ∧ r.2.hart = s.hart
    else
      r.1 = false ∧
      r.2.hart = (issue (.injectException (match d.kind with | .load => 5 | .store => 7) d.addr) s).hart

/-- R350: one instruction. A denied fetch takes the access fault at `pc`; otherwise `nextPC` becomes the fall-through
address, 2 or 4 bytes on, and an illegal word takes code 2 with the word, a legal one is executed; STEP ends each case.
That a word within 3 bytes of 2^64 takes its upper bytes at addresses modulo 2^64 is the model's choice
(notes/assumptions/21.md). -/
def Obligations.EngineStepRunsOneInstruction : Prop :=
  ∀ (e : Engine) (s : State), s.hart.fatal = false →
    if pmpCheck s.cfg s.hart s.hart.pc.toNat 8 .exec s.hart.priv ≠ none then
      let h := (issue (.injectException 1 s.hart.pc) s).hart
      (engineStep e s).hart = { h with pc := h.nextPC }
    else
      let w := e.memory (s.hart.pc + 3) ++ e.memory (s.hart.pc + 2) ++ e.memory (s.hart.pc + 1) ++ e.memory s.hart.pc
      ∃ t : State, t.cfg = s.cfg ∧
        (t.hart = { s.hart with nextPC := s.hart.pc + 2 } ∨ t.hart = { s.hart with nextPC := s.hart.pc + 4 }) ∧
        (e.length w = .two → t.hart.nextPC = s.hart.pc + 2) ∧ (e.length w = .four → t.hart.nextPC = s.hart.pc + 4) ∧
        match decodeFn w with
        | .illegal b =>
          let h := (issue (.injectException 2 (b.setWidth 64)) t).hart
          (engineStep e s).hart = { h with pc := h.nextPC }
        | .structured n => engineStep e s = pseudoStep (executeOp (e.interpret (.structured n) w t) w t)

/-! ### Invariants -/

/-- Every step keeps the invariant: the WARL fields stay legal, the registers stay within their widths, and no PMP entry
past PMP_COUNT appears. -/
def Obligations.InvariantKeptByEveryStep : Prop :=
  ∀ s t : State, Inv s → step s = .next t → Inv t

/-- The invariant holds of a newly built block of every legal configuration, and of the state after reset. -/
def Obligations.InvariantHoldsAtReset : Prop :=
  (∀ cfg : Config, cfg.legal = true → Inv (State.construct cfg)) ∧ Inv State.reset

/-- R333, R437: a step leaves the safe states only by a PMP register command with an out-of-range index. -/
def Obligations.OnlyABadPmpIndexIsUnsafe : Prop :=
  ∀ s t : State, Safe s → step s = .next t → ¬ Safe t →
    ∃ r rest, s.requests = r :: rest ∧
      ((r.op ∈ [0x31#8, 0x32#8] ∧ s.cfg.pmpCount.toNat ≤ r.idx.toNat) ∨
       (r.op = 0x33#8 ∧ (r.idx.toNat % 2 = 1 ∨ s.cfg.pmpCount.toNat ≤ 4 * r.idx.toNat)))
end

