-- ==== Sys2Proof/Laws/Bits.lean ====
section
/-!
SUPPORT. The bit-field helpers bit by bit: what each bit of `setField`, `maskedWrite` and `onlyIf` is. Every claim about a
field of a status register goes through these.
-/

namespace Sys2Proof.Machine

/-- A bit of a value with one field replaced: the field's own bit inside the field, the old bit outside. -/
theorem getLsbD_setField (v : Word) (lo : Nat) {w : Nat} (x : BitVec w) (hw : lo + w ≤ 64) (j : Nat) :
    (setField v lo x).getLsbD j = if lo ≤ j ∧ j < lo + w then x.getLsbD (j - lo) else v.getLsbD j := by
  unfold setField
  simp only [BitVec.getLsbD_or, BitVec.getLsbD_and, BitVec.getLsbD_not, BitVec.getLsbD_shiftLeft,
    BitVec.getLsbD_setWidth, BitVec.getLsbD_allOnes]
  by_cases h1 : lo ≤ j
  · by_cases h2 : j < lo + w
    · have a : j < 64 := by omega
      have b : j - lo < 64 := by omega
      have c : ¬ j < lo := by omega
      have d : j - lo < w := by omega
      simp [h1, h2, a, b, c, d]
    · have d : ¬ (j - lo < w) := by omega
      have e : x.getLsbD (j - lo) = false := BitVec.getLsbD_of_ge _ _ (by omega)
      by_cases a : j < 64
      · simp [h2, a, d, e]
      · have f : v.getLsbD j = false := BitVec.getLsbD_of_ge _ _ (by omega)
        simp [h2, a, f]
  · have c : j < lo := by omega
    by_cases a : j < 64
    · simp [h1, a, c]
    · omega

/-- A bit of a masked write: from the new value where the mask is set, else from the old one. -/
theorem getLsbD_maskedWrite (old new mask : Word) (j : Nat) :
    (maskedWrite old new mask).getLsbD j = if mask.getLsbD j then new.getLsbD j else old.getLsbD j := by
  unfold maskedWrite
  simp only [BitVec.getLsbD_or, BitVec.getLsbD_and, BitVec.getLsbD_not]
  by_cases a : j < 64
  · cases mask.getLsbD j <;> simp [a]
  · have h1 := BitVec.getLsbD_of_ge mask j (by omega)
    have h2 := BitVec.getLsbD_of_ge old j (by omega)
    simp [a, h1, h2]

/-- A bit of `b ? v : 0`. -/
theorem getLsbD_onlyIf (b : Bool) (v : Word) (j : Nat) : (onlyIf b v).getLsbD j = (b && v.getLsbD j) := by
  cases b <;> simp [onlyIf]

/-- A masked write with the empty mask keeps the old value. -/
@[simp] theorem maskedWrite_zero (old new : Word) : maskedWrite old new 0 = old := by
  apply BitVec.eq_of_getLsbD_eq
  intro j _
  simp [getLsbD_maskedWrite]

end Sys2Proof.Machine
end

