-- ==== Sys2Proof/Laws/State.lean ====
section
/-!
SUPPORT. One lemma per field per update of the state: what each shared update of `State` and `Hart` leaves in every
field. Later proofs cite these (they are simp lemmas) and never unfold a record update.
-/

namespace Sys2Proof.Machine

section answers
variable (s : State) (h : Hart) (st : Status) (rd : Word) (rv : VReg) (op : Operation)

@[simp] theorem setHart_cfg : (s.setHart h).cfg = s.cfg := rfl
@[simp] theorem setHart_hart : (s.setHart h).hart = h := rfl
@[simp] theorem setHart_requests : (s.setHart h).requests = s.requests := rfl
@[simp] theorem setHart_response : (s.setHart h).response = s.response := rfl
@[simp] theorem setHart_freeIndex : (s.setHart h).freeIndex = s.freeIndex := rfl

@[simp] theorem answerWith_cfg : (s.answerWith st rd rv).cfg = s.cfg := rfl
@[simp] theorem answerWith_hart : (s.answerWith st rd rv).hart = s.hart := rfl
@[simp] theorem answerWith_requests : (s.answerWith st rd rv).requests = s.requests := rfl
@[simp] theorem answerWith_freeIndex : (s.answerWith st rd rv).freeIndex = s.freeIndex + 1 := rfl
@[simp] theorem answerWith_response :
    (s.answerWith st rd rv).response = some ⟨st, rd, rv, Config.freeOper s.freeIndex⟩ := rfl

@[simp] theorem answer_cfg : (s.answer st rd).cfg = s.cfg := rfl
@[simp] theorem answer_hart : (s.answer st rd).hart = s.hart := rfl
@[simp] theorem answer_requests : (s.answer st rd).requests = s.requests := rfl
@[simp] theorem answer_freeIndex : (s.answer st rd).freeIndex = s.freeIndex + 1 := rfl
@[simp] theorem answer_response : (s.answer st rd).response = some ⟨st, rd, 0, Config.freeOper s.freeIndex⟩ := rfl

@[simp] theorem answerOper_cfg : (s.answerOper op).cfg = s.cfg := rfl
@[simp] theorem answerOper_hart : (s.answerOper op).hart = s.hart := rfl
@[simp] theorem answerOper_requests : (s.answerOper op).requests = s.requests := rfl
@[simp] theorem answerOper_freeIndex : (s.answerOper op).freeIndex = s.freeIndex := rfl
@[simp] theorem answerOper_response : (s.answerOper op).response = some ⟨.ok, 0, 0, op⟩ := rfl

end answers

/-! ### Register files: what a write leaves in each field, and what a read finds after it -/

section registers
variable (h : Hart) (i j : RegIndex) (v : Word)

/-- A write of an integer register is the hart with another `x` file. -/
theorem writeX_eq : h.writeX i v = { h with x := (h.writeX i v).x } := by
  unfold Hart.writeX
  split <;> rfl

@[simp] theorem writeX_pc : (h.writeX i v).pc = h.pc := by rw [writeX_eq]
@[simp] theorem writeX_nextPC : (h.writeX i v).nextPC = h.nextPC := by rw [writeX_eq]
@[simp] theorem writeX_f : (h.writeX i v).f = h.f := by rw [writeX_eq]
@[simp] theorem writeX_v : (h.writeX i v).v = h.v := by rw [writeX_eq]
@[simp] theorem writeX_priv : (h.writeX i v).priv = h.priv := by rw [writeX_eq]
@[simp] theorem writeX_csr : (h.writeX i v).csr = h.csr := by rw [writeX_eq]
@[simp] theorem writeX_pmpcfg : (h.writeX i v).pmpcfg = h.pmpcfg := by rw [writeX_eq]
@[simp] theorem writeX_pmpaddr : (h.writeX i v).pmpaddr = h.pmpaddr := by rw [writeX_eq]
@[simp] theorem writeX_tohost : (h.writeX i v).tohost = h.tohost := by rw [writeX_eq]
@[simp] theorem writeX_fromhost : (h.writeX i v).fromhost = h.fromhost := by rw [writeX_eq]
@[simp] theorem writeX_fatal : (h.writeX i v).fatal = h.fatal := by rw [writeX_eq]

/-- x0 reads as zero (R25). -/
@[simp] theorem readX_zero : h.readX 0 = 0 := rfl

/-- What index `j` reads after a write of index `i` (R171, R182). -/
theorem readX_writeX : (h.writeX i v).readX j = if j = i ∧ i ≠ 0 then v else h.readX j := by
  unfold Hart.writeX Hart.readX
  by_cases hi : i.val = 0
  · have : i = 0 := Fin.ext hi
    simp [this]
  · have hi0 : i ≠ 0 := fun e => hi (by rw [e]; rfl)
    simp only [hi, dite_false, hi0, ne_eq, not_false_iff, and_true]
    by_cases hj : j.val = 0
    · have hj0 : j ≠ i := fun e => hi (by rw [← e]; exact hj)
      simp [hj, hj0]
    · simp only [hj, dite_false, Vector.getElem_set]
      by_cases e : j = i
      · simp [e]
      · have hv : i.val - 1 ≠ j.val - 1 := fun c => e (Fin.ext (by omega))
        simp [e, hv]

/-- What index `j` reads after a write of index `i` (R173, R182). -/
theorem readF_writeF : (h.writeF i v).readF j = if j = i then v else h.readF j := by
  simp only [Hart.readF, Hart.writeF, Fin.getElem_fin, Vector.getElem_set]
  by_cases e : i = j
  · simp [e]
  · have hv : i.val ≠ j.val := fun c => e (Fin.ext c)
    simp [hv, Ne.symm e]

/-- What index `j` reads after a write of index `i` (R175, R182). -/
theorem readV_writeV (cfg : Config) (val : VReg) :
    (h.writeV cfg i val).readV j = if j = i then val % 2 ^ cfg.vlen else h.readV j := by
  simp only [Hart.readV, Hart.writeV, Fin.getElem_fin, Vector.getElem_set]
  by_cases e : i = j
  · simp [e]
  · have hv : i.val ≠ j.val := fun c => e (Fin.ext c)
    simp [hv, Ne.symm e]

end registers

end Sys2Proof.Machine
end

