-- ==== Sys2Proof/Laws/Ops.lean ====
section
/-!
SUPPORT. One lemma for each shared operation that says once everything it can do: the order of checks, the PMP writes,
trap entry, taking a request; and the laws of the CSR numbers and of the decoder on requests.
-/

namespace Sys2Proof.Machine

/-! ### The order of checks -/

/-- The three outcomes of the order of checks of R136. -/
theorem guarded_cases {α : Type} (s : State) (o : Option α) (body : α → Host.Outcome State Fault Refusal) :
    (s.hart.fatal = true ∧ guarded s o body = reply s .fatal 0) ∨
    (s.hart.fatal = false ∧ o = none ∧ guarded s o body = reply s .badOperand 0) ∨
    (s.hart.fatal = false ∧ ∃ a, o = some a ∧ guarded s o body = body a) := by
  cases hf : s.hart.fatal
  · cases o with
    | none => exact .inr (.inl ⟨rfl, rfl, by simp [guarded, hf]⟩)
    | some a => exact .inr (.inr ⟨rfl, a, rfl, by simp [guarded, hf]⟩)
  · exact .inl ⟨rfl, by simp [guarded, hf]⟩

theorem guarded_fatal {α : Type} {s : State} (hf : s.hart.fatal = true) (o : Option α)
    (body : α → Host.Outcome State Fault Refusal) : guarded s o body = reply s .fatal 0 := by
  simp [guarded, hf]

theorem guarded_some {α : Type} {s : State} (hf : s.hart.fatal = false) (a : α)
    (body : α → Host.Outcome State Fault Refusal) : guarded s (some a) body = body a := by
  simp [guarded, hf]

theorem guarded_none {α : Type} {s : State} (hf : s.hart.fatal = false)
    (body : α → Host.Outcome State Fault Refusal) : guarded s none body = reply s .badOperand 0 := by
  simp [guarded, hf]

theorem checked_fatal {s : State} (hf : s.hart.fatal = true) (body : Host.Outcome State Fault Refusal) :
    checked s body = reply s .fatal 0 :=
  guarded_fatal hf _ _

theorem checked_safe {s : State} (hf : s.hart.fatal = false) (body : Host.Outcome State Fault Refusal) :
    checked s body = body :=
  guarded_some hf _ _

/-! ### Operands -/

theorem regIndex_eq_some {idx : BitVec 12} {i : RegIndex} : regIndex idx = some i ↔ idx.toNat = i.val := by
  unfold regIndex
  split
  · simp [Fin.ext_iff]
  · have := i.isLt
    simp
    omega

theorem regIndex_eq_none {idx : BitVec 12} : regIndex idx = none ↔ 31 < idx.toNat := by
  unfold regIndex
  split <;> simp <;> omega

theorem excCode_eq_some {kind : BitVec 6} {c : ExcCode} : excCode kind = some c ↔ kind.toNat = c.val := by
  unfold excCode
  split
  · simp [Fin.ext_iff]
  · have := c.isLt
    simp
    omega

theorem excCode_eq_none {kind : BitVec 6} : excCode kind = none ↔ 15 < kind.toNat := by
  unfold excCode
  split <;> simp <;> omega

/-! ### CSR numbers -/

/-- The number of a CSR leads back to it (R205: no aliasing). -/
theorem csrOfNumber_number (c : Csr) : csrOfNumber c.number = some c := by
  cases c with
  | pmpcfg n => revert n; decide
  | pmpaddr i => revert i; decide
  | _ => decide

/-- A number names at most the CSR whose number it is. -/
theorem number_of_csrOfNumber {id : BitVec 12} {c : Csr} (h : csrOfNumber id = some c) : c.number = id := by
  unfold csrOfNumber at h
  split at h
  · obtain rfl := Option.some.inj h
    apply BitVec.eq_of_toNat_eq
    simp only [Csr.number, BitVec.toNat_ofNat]
    omega
  · split at h
    · obtain rfl := Option.some.inj h
      apply BitVec.eq_of_toNat_eq
      simp only [Csr.number, BitVec.toNat_ofNat]
      omega
    · simpa using List.find?_some h

/-! ### The PMP table -/

@[simp] theorem cfgByte_of_le {h : Hart} {i : Nat} (hi : 64 ≤ i) : h.cfgByte i = 0 := by
  simp [Hart.cfgByte, Vector.getElem?_eq_none hi]

@[simp] theorem addrField_of_le {h : Hart} {i : Nat} (hi : 64 ≤ i) : h.addrField i = 0 := by
  simp [Hart.addrField, Vector.getElem?_eq_none hi]

/-- What entry `j` holds after the byte of entry `i` is written (R297). -/
theorem cfgByte_writeCfgByte (h : Hart) (i j : Nat) (b : BitVec 8) :
    (h.writeCfgByte i b).cfgByte j = if j = i ∧ i < 64 then pmpWriteCfg (h.cfgByte i) b else h.cfgByte j := by
  simp only [Hart.cfgByte, Hart.writeCfgByte, Vector.getElem?_setIfInBounds]
  by_cases e : i = j
  · subst e
    by_cases hi : i < 64 <;> simp [hi]
  · simp [e, Ne.symm e]

/-- A byte write is the hart with other PMP bytes. -/
theorem writeCfgByte_eq (h : Hart) (i : Nat) (b : BitVec 8) :
    h.writeCfgByte i b = { h with pmpcfg := (h.writeCfgByte i b).pmpcfg } := rfl

/-- The first `m` bytes of a `pmpcfg` write: entries `4n .. 4n + m - 1` take their byte, the others keep theirs. -/
theorem cfgByte_foldl_writeCfgByte (h : Hart) (n : Nat) (v : Word) (m j : Nat) :
    ((List.range m).foldl (fun h k => h.writeCfgByte (4 * n + k) (v.extractLsb' (8 * k) 8)) h).cfgByte j =
      if 4 * n ≤ j ∧ j < 4 * n + m ∧ j < 64 then pmpWriteCfg (h.cfgByte j) (v.extractLsb' (8 * (j - 4 * n)) 8)
      else h.cfgByte j := by
  induction m with
  | zero => simp; omega
  | succ m ih =>
    rw [List.range_succ, List.foldl_append, List.foldl_cons, List.foldl_nil, cfgByte_writeCfgByte, ih]
    by_cases hj : j = 4 * n + m
    · subst hj
      by_cases h64 : 4 * n + m < 64
      · have hin : 4 * n ≤ 4 * n + m ∧ 4 * n + m < 4 * n + (m + 1) ∧ 4 * n + m < 64 := ⟨by omega, by omega, h64⟩
        have hout : ¬(4 * n ≤ 4 * n + m ∧ 4 * n + m < 4 * n + m ∧ 4 * n + m < 64) := by omega
        rw [if_pos ⟨rfl, h64⟩, if_pos hin, ih, if_neg hout, show 4 * n + m - 4 * n = m by omega]
      · rw [if_neg (by omega), if_neg (by omega), if_neg (by omega)]
    · rw [if_neg (by tauto)]
      by_cases c : 4 * n ≤ j ∧ j < 4 * n + m ∧ j < 64
      · rw [if_pos c, if_pos (by omega)]
      · rw [if_neg c, if_neg (by omega)]

/-- What entry `j` holds after `pmpcfg n` is written (R299): its own byte of the value, by R297, when it is one of the
register's eight entries. -/
theorem cfgByte_writePmpcfg (h : Hart) (n : Nat) (v : Word) (j : Nat) :
    (h.writePmpcfg n v).cfgByte j =
      if 4 * n ≤ j ∧ j < 4 * n + 8 ∧ j < 64 then pmpWriteCfg (h.cfgByte j) (v.extractLsb' (8 * (j - 4 * n)) 8)
      else h.cfgByte j :=
  cfgByte_foldl_writeCfgByte h n v 8 j

/-- A `pmpcfg` write is the hart with other PMP bytes. -/
theorem writePmpcfg_eq (h : Hart) (n : Nat) (v : Word) :
    h.writePmpcfg n v = { h with pmpcfg := (h.writePmpcfg n v).pmpcfg } := by
  have gen : ∀ (l : List Nat) (h : Hart),
      l.foldl (fun h k => h.writeCfgByte (4 * n + k) (v.extractLsb' (8 * k) 8)) h =
        { h with
          pmpcfg := (l.foldl (fun h k => h.writeCfgByte (4 * n + k) (v.extractLsb' (8 * k) 8)) h).pmpcfg } := by
    intro l
    induction l with
    | nil => intro h; rfl
    | cons a l ih => intro h; rw [List.foldl_cons, ih]; rfl
  exact gen _ h

/-- A `pmpaddr` write is the hart with other PMP addresses. -/
theorem writePmpaddr_eq (cfg : Config) (h : Hart) (i : Nat) (v : Word) :
    h.writePmpaddr cfg i v = { h with pmpaddr := (h.writePmpaddr cfg i v).pmpaddr } := by
  unfold Hart.writePmpaddr
  split <;> rfl

/-- What entry `j`'s address is after `pmpaddr i` is written (R298). -/
theorem addrField_writePmpaddr (cfg : Config) (h : Hart) (i j : Nat) (v : Word) :
    (h.writePmpaddr cfg i v).addrField j =
      if j = i ∧ i < 64 ∧ h.pmpLocked i = false ∧ h.pmpTorLocked cfg i = false then v.setWidth 54
      else h.addrField j := by
  unfold Hart.writePmpaddr
  cases hl : h.pmpLocked i
  · cases ht : h.pmpTorLocked cfg i
    · simp only [Hart.addrField, Bool.or_self, Bool.false_eq_true, if_false, and_true,
        Vector.getElem?_setIfInBounds]
      by_cases e : i = j
      · subst e
        by_cases hi : i < 64 <;> simp [hi]
      · simp [e, Ne.symm e]
    · simp
  · simp

/-- The PMP_COUNT entries fit the table. -/
theorem pmpCount_le (c : PmpCount) : c.toNat ≤ 64 := by
  cases c <;> decide

/-! ### Trap entry -/

/-- The target of a trap is S exactly when S exists, the code is delegated, and the trap is raised below M
(R262, R391). -/
theorem delegatee_eq (cfg : Config) (medeleg : Word) (c : ExcCode) (cur : Priv) :
    delegatee cfg medeleg c cur =
      if cfg.hasS = true ∧ medeleg.getLsbD c.val = true ∧ cur ≠ .M then .S else .M := by
  unfold delegatee
  cases cfg.hasS <;> cases medeleg.getLsbD c.val <;> cases cur <;> decide

/-- Trap entry changes `csr`, `priv` and `nextPC` only (R267). -/
theorem takeException_eq (cfg : Config) (h : Hart) (c : ExcCode) (tval : Word) :
    takeException cfg h c tval =
      { h with
        csr := (takeException cfg h c tval).csr
        priv := delegatee cfg h.csr.medeleg c h.priv
        nextPC := trapVector h.csr (delegatee cfg h.csr.medeleg c h.priv) } := rfl

/-! ### Taking a request -/

theorem takeRequest_nil {s : State} (h : s.requests = []) : takeRequest s = none := by
  simp [takeRequest, h]

theorem takeRequest_cons {s : State} {r : Request} {rest : List Request} (h : s.requests = r :: rest) :
    takeRequest s = some (r, { s with requests := rest }) := by
  simp [takeRequest, h]

end Sys2Proof.Machine
end

