-- ==== Sys2Proof/Laws/Status.lean ====
section
/-!
SUPPORT. What the shared endings of a command complete with, which operands have no value, and which bits of `mstatus` a
configuration lets software write.
-/

namespace Sys2Proof.Machine

/-! ### Endings -/

theorem completes_reply (s : State) (st : Status) (rd : Word) : Completes (reply s st rd) s s.hart st rd 0 :=
  ⟨_, _, rfl, rfl, rfl, rfl, rfl, rfl, rfl, rfl⟩

theorem completes_commit (s : State) (h : Hart) (st : Status) (rd : Word) :
    Completes (commit s h st rd) s h st rd 0 :=
  ⟨_, _, rfl, rfl, rfl, rfl, rfl, rfl, rfl, rfl⟩

theorem completes_answerWith (s : State) (st : Status) (rd : Word) (rv : VReg) :
    Completes (.next (s.answerWith st rd rv)) s s.hart st rd rv :=
  ⟨_, _, rfl, rfl, rfl, rfl, rfl, rfl, rfl, rfl⟩

/-! ### Operands out of domain (R135) -/

theorem hostSelect_eq_none {idx : BitVec 12} : hostSelect idx = none ↔ 1 < idx.toNat := by
  unfold hostSelect
  split <;> simp_all <;> omega

theorem levelOf_eq_none {idx : BitVec 12} : levelOf idx = none ↔ idx.toNat = 2 ∨ 3 < idx.toNat := by
  unfold levelOf
  split <;> simp_all <;> omega

theorem accessKindOf_eq_none {kind : BitVec 6} : accessKindOf kind = none ↔ 2 < kind.toNat := by
  unfold accessKindOf
  split <;> simp_all <;> omega

/-! ### Status bits -/

/-- `MSTATUS_RW` bit by bit is R32's field table. -/
theorem getLsbD_mstatusRw (cfg : Config) (j : Nat) (hj : j < 64) : (mstatusRw cfg).getLsbD j = rwBit cfg j := by
  unfold mstatusRw rwBit
  simp only [BitVec.getLsbD_or, getLsbD_onlyIf]
  generalize cfg.hasS = a, cfg.hasU = b, cfg.hasV = c, cfg.hasF = d
  revert a b c d j
  decide

/-- A 2-bit field is 3 exactly when both its bits are set. -/
theorem extract_two_eq_three (v : Word) (k : Nat) :
    (v.extractLsb' k 2 == 3#2) = (v.getLsbD k && v.getLsbD (k + 1)) := by
  rw [Bool.eq_iff_iff]
  simp only [beq_iff_eq, Bool.and_eq_true]
  constructor
  · intro h
    have h0 := congrArg (·.getLsbD 0) h
    have h1 := congrArg (·.getLsbD 1) h
    simp at h0 h1
    exact ⟨h0, h1⟩
  · rintro ⟨h0, h1⟩
    apply BitVec.eq_of_getLsbD_eq
    intro i hi
    have : i = 0 ∨ i = 1 := by omega
    rcases this with rfl | rfl <;> simp [h0, h1]

/-- SD bit by bit (R32). -/
theorem sdOf_eq (v : Word) :
    sdOf v = ((v.getLsbD 13 && v.getLsbD 14) || (v.getLsbD 9 && v.getLsbD 10)) := by
  unfold sdOf
  rw [extract_two_eq_three, extract_two_eq_three]

end Sys2Proof.Machine
end

