-- ==== Sys2Proof/Laws/Effect.lean ====
section
/-!
SUPPORT. Everything a command can do to the hart, said once: `exec` leaves the hart as it was, or as `Effect` says. Every
claim about all commands (frames, writers, invariants) splits on this and never unfolds a meaning.
-/

namespace Sys2Proof.Machine

/-- The hart `h` that the command `i` can leave in state `s`, where it changes anything at all; the commands with
`False` never do. -/
def Effect (s : State) (h : Hart) : Instr → Prop
  | .reset => h = Hart.constructed
  | .readGpr _ => False
  | .writeGpr idx v => ∃ a, regIndex idx = some a ∧ h = s.hart.writeX a v
  | .readFpr _ => False
  | .writeFpr idx v => ∃ a, regIndex idx = some a ∧ h = s.hart.writeF a v
  | .readVr _ => False
  | .writeVr idx v => ∃ a, regIndex idx = some a ∧ h = s.hart.writeV s.cfg a v
  | .readPc => False
  | .writePc v => h = { s.hart with pc := v }
  | .readNextPc => False
  | .writeNextPc v => h = { s.hart with nextPC := v }
  | .readHost _ => False
  | .writeHost idx v => ∃ a, hostSelect idx = some a ∧ h = s.hart.writeHost a v
  | .readCsr _ => False
  | .writeCsr idx v =>
    ∃ c, csrOfNumber idx = some c ∧ csrDefined s.cfg s.hart.priv idx = true ∧ csrReadOnlySpace idx = false ∧
      h = csrWrite s.cfg s.hart c v
  | .isCsrDefined _ => False
  | .setVconfig a b => h = { s.hart with csr := { s.hart.csr with vl := a, vtype := b } }
  | .setMipPlatform v =>
    h = { s.hart with csr := { s.hart.csr with mip := maskedWrite s.hart.csr.mip v mInterruptMask } }
  | .getPriv => False
  | .setPriv idx => ∃ p, levelOf idx = some p ∧ h = { s.hart with priv := p }
  | .injectException kind v => ∃ c, excCode kind = some c ∧ h = takeException s.cfg s.hart c v
  | .checkAccess _ _ => False
  | .getPmpaddr idx => s.cfg.pmpCount.toNat ≤ idx.toNat ∧ h = { s.hart with fatal := true }
  | .setPmpaddr idx v =>
    (s.cfg.pmpCount.toNat ≤ idx.toNat ∧ h = { s.hart with fatal := true }) ∨
    (idx.toNat < s.cfg.pmpCount.toNat ∧ h = s.hart.writePmpaddr s.cfg idx.toNat v)
  | .setPmpcfg idx v =>
    ((idx.toNat % 2 = 1 ∨ s.cfg.pmpCount.toNat ≤ 4 * idx.toNat) ∧ h = { s.hart with fatal := true }) ∨
    (idx.toNat % 2 = 0 ∧ 4 * idx.toNat < s.cfg.pmpCount.toNat ∧ h = s.hart.writePmpcfg idx.toNat v)
  | .decode _ => False

theorem reply_next {s t : State} {st : Status} {rd : Word} (h : reply s st rd = .next t) : t.hart = s.hart := by
  cases h
  rfl

theorem commit_next {s t : State} {h' : Hart} {st : Status} {rd : Word} (h : commit s h' st rd = .next t) :
    t.hart = h' := by
  cases h
  rfl

/-- A guarded command that answers a next state leaves the hart alone or runs its own rule. -/
theorem guarded_next {α : Type} {s t : State} {o : Option α} {body : α → Host.Outcome State Fault Refusal}
    (h : guarded s o body = .next t) :
    t.hart = s.hart ∨ ∃ a, o = some a ∧ s.hart.fatal = false ∧ body a = .next t := by
  rcases guarded_cases s o body with ⟨_, e⟩ | ⟨_, _, e⟩ | ⟨hf, a, ea, e⟩
  · exact .inl (reply_next (e ▸ h))
  · exact .inl (reply_next (e ▸ h))
  · exact .inr ⟨a, ea, hf, e ▸ h⟩

/-- A guarded command whose rule only answers changes no hart. -/
theorem guarded_quiet {α : Type} {s t : State} {o : Option α} {body : α → Host.Outcome State Fault Refusal}
    (h : guarded s o body = .next t) (hb : ∀ a, body a = .next t → t.hart = s.hart) : t.hart = s.hart := by
  rcases guarded_next h with e | ⟨a, _, _, e⟩
  · exact e
  · exact hb a e

/-- A guarded command whose rule commits `f a` leaves the hart alone or commits. -/
theorem guarded_commits {α : Type} {s t : State} {o : Option α} {f : α → Hart} {st : α → Status} {rd : α → Word}
    (h : (guarded s o fun a => commit s (f a) (st a) (rd a)) = .next t) :
    t.hart = s.hart ∨ ∃ a, o = some a ∧ t.hart = f a := by
  rcases guarded_next h with e | ⟨a, ea, _, e⟩
  · exact .inl e
  · exact .inr ⟨a, ea, commit_next e⟩

/-- The same for a command without an operand domain. -/
theorem checked_commits {s t : State} {h' : Hart} {st : Status} {rd : Word}
    (h : checked s (commit s h' st rd) = .next t) : t.hart = s.hart ∨ t.hart = h' := by
  rcases guarded_commits h with e | ⟨_, _, e⟩
  · exact .inl e
  · exact .inr e

/-- A command without an operand domain that answers a next state leaves the hart alone or runs its own rule. -/
theorem checked_next {s t : State} {body : Host.Outcome State Fault Refusal} (h : checked s body = .next t) :
    t.hart = s.hart ∨ body = .next t := by
  rcases guarded_next h with e | ⟨_, _, _, e⟩
  · exact .inl e
  · exact .inr e

theorem checked_quiet {s t : State} {body : Host.Outcome State Fault Refusal} (h : checked s body = .next t)
    (hb : body = .next t → t.hart = s.hart) : t.hart = s.hart := by
  rcases checked_next h with e | e
  · exact e
  · exact hb e

/-- EVERYTHING A COMMAND CAN DO: it leaves the hart as it was, or as `Effect` says. -/
theorem exec_effect {i : Instr} {s t : State} (h : exec i s = .next t) :
    t.hart = s.hart ∨ Effect s t.hart i := by
  cases i with
  | reset => exact .inr (commit_next h)
  | readGpr => exact .inl (guarded_quiet h fun _ => reply_next)
  | writeGpr => exact guarded_commits h
  | readFpr => exact .inl (guarded_quiet h fun _ => reply_next)
  | writeFpr => exact guarded_commits h
  | readVr => exact .inl (guarded_quiet h fun a e => by cases e; rfl)
  | writeVr => exact guarded_commits h
  | readPc => exact .inl (checked_quiet h reply_next)
  | writePc => exact checked_commits h
  | readNextPc => exact .inl (checked_quiet h reply_next)
  | writeNextPc => exact checked_commits h
  | readHost => exact .inl (guarded_quiet h fun _ => reply_next)
  | writeHost => exact guarded_commits h
  | readCsr idx =>
    refine .inl (checked_quiet h fun e => ?_)
    cases hv : visibleCsr s idx <;> simp only [hv] at e <;> exact reply_next e
  | writeCsr idx v =>
    rcases checked_next h with e | e
    · exact .inl e
    · cases hv : visibleCsr s idx with
      | none => simp only [hv] at e; exact .inl (reply_next e)
      | some c =>
        simp only [hv] at e
        unfold visibleCsr at hv
        split at hv
        · cases hr : csrReadOnlySpace idx
          · simp only [hr] at e
            exact .inr ⟨c, hv, ‹_›, hr, commit_next e⟩
          · simp only [hr] at e
            exact .inl (reply_next e)
        · cases hv
  | isCsrDefined => exact .inl (checked_quiet h reply_next)
  | setVconfig => exact checked_commits h
  | setMipPlatform => exact checked_commits h
  | getPriv => exact .inl (checked_quiet h reply_next)
  | setPriv => exact guarded_commits h
  | injectException => exact guarded_commits h
  | checkAccess => exact .inl (guarded_quiet h fun _ => reply_next)
  | getPmpaddr idx =>
    rcases checked_next h with e | e
    · exact .inl e
    · split at e
      · exact .inr ⟨‹_›, commit_next e⟩
      · exact .inl (reply_next e)
  | setPmpaddr idx v =>
    rcases checked_next h with e | e
    · exact .inl e
    · split at e
      · exact .inr (.inl ⟨‹_›, commit_next e⟩)
      · exact .inr (.inr ⟨by omega, commit_next e⟩)
  | setPmpcfg idx v =>
    rcases checked_next h with e | e
    · exact .inl e
    · split at e
      · exact .inr (.inl ⟨‹_›, commit_next e⟩)
      · exact .inr (.inr ⟨by omega, by omega, commit_next e⟩)
  | decode => exact .inl (guarded_quiet h fun a e => by cases e; rfl)

/-- A CSR write changes the CSR file as `csrStorageWrite` says (the PMP registers change none of it). -/
@[simp] theorem csrWrite_csr (cfg : Config) (h : Hart) (c : Csr) (v : Word) :
    (csrWrite cfg h c v).csr = csrStorageWrite cfg h.csr v c := by
  unfold csrWrite
  split
  · rw [writePmpcfg_eq]
    rfl
  · rw [writePmpaddr_eq]
    rfl
  · rfl

/-- A CSR write changes `csr`, `pmpcfg` and `pmpaddr` only. -/
theorem csrWrite_eq (cfg : Config) (h : Hart) (c : Csr) (v : Word) :
    csrWrite cfg h c v =
      { h with
        csr := (csrWrite cfg h c v).csr
        pmpcfg := (csrWrite cfg h c v).pmpcfg
        pmpaddr := (csrWrite cfg h c v).pmpaddr } := by
  unfold csrWrite
  split
  · rw [writePmpcfg_eq]
  · rw [writePmpaddr_eq]
  · rfl

/-- A step with a request performs it, rejects it, or (with none) leaves the state as it is. -/
theorem step_cases {s t : State} (h : step s = .next t) :
    (s.requests = [] ∧ t = s) ∨
    (∃ r rest i, s.requests = r :: rest ∧ Sys2Proof.decode r = .ok i ∧
      exec i { s with requests := rest } = .next t) ∨
    (∃ r rest e, s.requests = r :: rest ∧ Sys2Proof.decode r = .error e ∧
      answerReject e { s with requests := rest } = .next t) := by
  unfold step at h
  cases hr : s.requests with
  | nil =>
    rw [takeRequest_nil hr] at h
    cases h
    exact .inl ⟨rfl, rfl⟩
  | cons r rest =>
    rw [takeRequest_cons hr] at h
    simp only at h
    cases hd : Sys2Proof.decode r with
    | ok i =>
      simp only [hd] at h
      exact .inr (.inl ⟨r, rest, i, rfl, hd, h⟩)
    | error e =>
      simp only [hd] at h
      exact .inr (.inr ⟨r, rest, e, rfl, hd, h⟩)

/-- A rejected request changes no hart. -/
theorem answerReject_next {e : DecodeReject} {s t : State} (h : answerReject e s = .next t) : t.hart = s.hart := by
  unfold answerReject at h
  split at h <;> exact reply_next h

end Sys2Proof.Machine
end

