-- ==== Sys2Proof/Laws/Engine.lean ====
section
/-!
SUPPORT. What issuing one command gives outside the fatal state, the machine bracket's CSR read, and, as one update of the
hart each: STEP, the dirtying of FS and VS, the gate on them, the check of a load or store, and the two returns from a
trap. Later proofs about the engine's sequences cite these and unfold no sequence.
-/

namespace Sys2Proof.Machine

@[simp] theorem answer_rdata (s : State) (st : Status) (rd : Word) : (s.answer st rd).rdata = rd := rfl

theorem issue_getPriv {s : State} (hf : s.hart.fatal = false) :
    issue .getPriv s = s.answer .ok (s.hart.priv.enc.setWidth 64) := by
  simp [issue, exec, execGetPriv, checked_safe hf, reply]

theorem issue_setPriv {s : State} {idx : BitVec 12} {p : Priv} (hf : s.hart.fatal = false) (hp : levelOf idx = some p) :
    issue (.setPriv idx) s = (s.setHart { s.hart with priv := p }).answer .ok 0 := by
  simp [issue, exec, execSetPriv, hp, guarded_some hf, commit]

theorem issue_readCsr {s : State} {id : BitVec 12} {c : Csr} (hf : s.hart.fatal = false)
    (hd : csrDefined s.cfg s.hart.priv id = true) (hc : csrOfNumber id = some c) :
    issue (.readCsr id) s = s.answer .ok (csrView s.cfg s.hart c) := by
  simp [issue, exec, execReadCsr, checked_safe hf, visibleCsr, hd, hc, reply]

theorem issue_writeCsr {s : State} {id : BitVec 12} {c : Csr} {v : Word} (hf : s.hart.fatal = false)
    (hd : csrDefined s.cfg s.hart.priv id = true) (hc : csrOfNumber id = some c) (hr : csrReadOnlySpace id = false) :
    issue (.writeCsr id v) s = (s.setHart (csrWrite s.cfg s.hart c v)).answer .ok 0 := by
  simp [issue, exec, execWriteCsr, checked_safe hf, visibleCsr, hd, hc, commit, hr]

theorem issue_writeNextPc {s : State} {v : Word} (hf : s.hart.fatal = false) :
    issue (.writeNextPc v) s = (s.setHart { s.hart with nextPC := v }).answer .ok 0 := by
  simp [issue, exec, execWriteNextPc, checked_safe hf, commit]

theorem issue_injectException {s : State} {kind : BitVec 6} {v : Word} {c : ExcCode} (hf : s.hart.fatal = false)
    (hc : excCode kind = some c) :
    issue (.injectException kind v) s =
      (s.setHart (takeException s.cfg s.hart c v)).answer .ok
        ((takeException s.cfg s.hart c v).priv.enc.setWidth 64) := by
  simp [issue, exec, execInjectException, hc, guarded_some hf, commit]

/-- STEP moves `pc` to `nextPC` and changes nothing else (R146). -/
theorem pseudoStep_hart {s : State} (hf : s.hart.fatal = false) :
    (pseudoStep s).hart = { s.hart with pc := s.hart.nextPC } := by
  have hr : issue .readNextPc s = s.answer .ok s.hart.nextPC := by
    simp [issue, exec, execReadNextPc, checked_safe hf, reply]
  simp only [pseudoStep, ask, hr, answer_rdata]
  simp [issue, exec, execWritePc, checked_safe (s := s.answer _ _) hf, commit]

/-- At M, visibility is existence. -/
theorem csrDefined_M (cfg : Config) {id : BitVec 12} {c : Csr} (hc : csrOfNumber id = some c)
    (he : c.existsIn cfg = true) (hp : (csrMinPriv id).toNat ≤ 3) : csrDefined cfg .M id = true := by
  simp [csrDefined, csrExists, hc, he, Priv.enc, hp]

theorem csrDefined_mstatus (cfg : Config) : csrDefined cfg .M 0x300#12 = true :=
  csrDefined_M cfg (c := .mstatus) (by decide) rfl (by decide)

theorem csrDefined_mepc (cfg : Config) : csrDefined cfg .M 0x341#12 = true :=
  csrDefined_M cfg (c := .mepc) (by decide) rfl (by decide)

theorem csrDefined_sepc {cfg : Config} (h : cfg.hasS = true) : csrDefined cfg .M 0x141#12 = true :=
  csrDefined_M cfg (c := .sepc) (by decide) h (by decide)

/-- The level read by GET_PRIV is the level SET_PRIV takes back. -/
theorem levelOf_enc (p : Priv) : levelOf ((p.enc.setWidth 64).setWidth 12) = some p := by
  cases p <;> decide

/-- A CSR read in the machine bracket: its value, and the hart and configuration as they were. -/
theorem readCsrAsM_eq {s : State} {id : BitVec 12} {c : Csr} (hf : s.hart.fatal = false)
    (hd : csrDefined s.cfg .M id = true) (hc : csrOfNumber id = some c) :
    (readCsrAsM id s).1 = csrView s.cfg { s.hart with priv := .M } c ∧
    (readCsrAsM id s).2.hart = s.hart ∧ (readCsrAsM id s).2.cfg = s.cfg := by
  unfold readCsrAsM
  simp only [ask, issue_getPriv hf, answer_rdata]
  rw [issue_setPriv (idx := 3) (p := .M) (by simpa using hf) (by decide)]
  rw [issue_readCsr (by simpa using hf) (by simpa using hd) hc]
  rw [issue_setPriv (by simpa using hf) (levelOf_enc _)]
  exact ⟨rfl, rfl, rfl⟩

/-- `mstatus` read in the machine bracket. -/
theorem readMstatusAsM_eq {s : State} (hf : s.hart.fatal = false) :
    (readCsrAsM 0x300 s).1 = mstatusRead s.cfg s.hart.csr.mstatus ∧
    (readCsrAsM 0x300 s).2.hart = s.hart ∧ (readCsrAsM 0x300 s).2.cfg = s.cfg :=
  readCsrAsM_eq (c := .mstatus) hf (csrDefined_mstatus _) (by decide)

theorem issue_checkAccess {s : State} {kind : BitVec 6} {a : Word} {k : AccessKind} (hf : s.hart.fatal = false)
    (hk : accessKindOf kind = some k) :
    issue (.checkAccess kind a) s =
      s.answer .ok (checkResult (pmpCheck s.cfg s.hart a.toNat pmpCheckWidth k s.hart.priv)) := by
  simp [issue, exec, execCheckAccess, hk, guarded_some hf, reply]

/-- A trap the engine raises with a code the block has is trap entry, and nothing else changes. -/
theorem raiseCode_hart {s : State} {kind : BitVec 6} {v : Word} {c : ExcCode} (hf : s.hart.fatal = false)
    (hc : excCode kind = some c) : (raiseCode kind v s).hart = takeException s.cfg s.hart c v := by
  rw [raiseCode, issue_injectException hf hc]
  rfl

/-- Setting bits of `mstatus` in the machine bracket writes them as WRITE_CSR does, and changes nothing else. -/
theorem orMstatusAsM_hart (bits : Word) {s : State} (hf : s.hart.fatal = false) :
    (orMstatusAsM bits s).hart =
      { s.hart with
        csr := { s.hart.csr with
          mstatus := mstatusWrite s.cfg s.hart.csr.mstatus (mstatusRead s.cfg s.hart.csr.mstatus ||| bits) } } ∧
    (orMstatusAsM bits s).cfg = s.cfg := by
  unfold orMstatusAsM asM
  simp only [ask]
  rw [issue_getPriv hf, issue_setPriv (idx := 3) (p := .M) (by simpa using hf) (by decide)]
  rw [issue_readCsr (c := .mstatus) (by simpa using hf) (by simpa using csrDefined_mstatus _) (by decide)]
  rw [issue_writeCsr (c := .mstatus) (by simpa using hf) (by simpa using csrDefined_mstatus _) (by decide) (by decide)]
  rw [answer_rdata, issue_setPriv (by simpa [csrWrite] using hf) (levelOf_enc _)]
  exact ⟨rfl, rfl⟩

/-- An instruction whose unit is off raises code 2 with its word (R357). -/
theorem unitInstr_off {u : UnitUse} {acts : List EngineAct} (w : BitVec 32) {s : State} (hf : s.hart.fatal = false)
    (h : (u.andOf acts).off (mstatusRead s.cfg s.hart.csr.mstatus) = true) :
    (unitInstr u acts w s).hart = takeException s.cfg s.hart 2 (w.setWidth 64) := by
  obtain ⟨e1, e2, e3⟩ := readMstatusAsM_eq hf
  simp only [unitInstr, e1, h, if_true]
  rw [raiseCode_hart (c := 2) (by rw [e2]; exact hf) (by decide), e2, e3]

/-- An instruction whose units are on performs its acts, from a state with the hart and configuration as they were. -/
theorem unitInstr_on {u : UnitUse} {acts : List EngineAct} (w : BitVec 32) {s : State} (hf : s.hart.fatal = false)
    (h : (u.andOf acts).off (mstatusRead s.cfg s.hart.csr.mstatus) = false) :
    ∃ t, unitInstr u acts w s = engineActs acts t ∧ t.hart = s.hart ∧ t.cfg = s.cfg := by
  obtain ⟨e1, e2, e3⟩ := readMstatusAsM_eq hf
  exact ⟨_, by simp only [unitInstr, e1, h, Bool.false_eq_true, if_false], e2, e3⟩

theorem enc_eq_three (p : Priv) : (p.enc.setWidth 64 : Word) = 3 ↔ p = .M := by
  cases p <;> decide

/-- The checker reads the level it is given, not the hart's own. -/
theorem pmpScan_setPriv (h : Hart) (q : Priv) (a w : Nat) (k : AccessKind) (p : Priv) (is : List Nat) :
    pmpScan { h with priv := q } a w k p is = pmpScan h a w k p is := by
  induction is with
  | nil => rfl
  | cons i is ih =>
    simp only [pmpScan, ih]
    rfl

theorem pmpCheck_setPriv (cfg : Config) (h : Hart) (q : Priv) (a w : Nat) (k : AccessKind) (p : Priv) :
    pmpCheck cfg { h with priv := q } a w k p = pmpCheck cfg h a w k p := by
  simp only [pmpCheck, pmpScan_setPriv]

/-- The check of a load or store: the PMP's answer at the level of R358, and the hart and configuration as they were. -/
theorem checkData_eq {kind : BitVec 6} {k : AccessKind} {a : Word} {s : State} {p : Priv} (hf : s.hart.fatal = false)
    (hk : accessKindOf kind = some k) (hp : DataLevel s p) :
    (checkData kind a s).1 = checkResult (pmpCheck s.cfg s.hart a.toNat pmpCheckWidth k p) ∧
    (checkData kind a s).2.hart = s.hart ∧ (checkData kind a s).2.cfg = s.cfg := by
  obtain ⟨e1, e2, e3⟩ := readMstatusAsM_eq hf
  unfold checkData
  simp only [ask, e1]
  generalize (readCsrAsM 0x300 s).2 = u at e2 e3
  have hu : u.hart.fatal = false := by rw [e2]; exact hf
  simp only [issue_getPriv hu, answer_rdata, enc_eq_three, e2]
  unfold DataLevel at hp
  split
  next h =>
    rw [if_pos h] at hp
    rw [issue_setPriv (by simpa using hu) hp]
    rw [issue_checkAccess (by simpa using hu) hk]
    rw [issue_setPriv (p := .M) (by simpa using hu) (by decide)]
    refine ⟨?_, ?_, ?_⟩
    · simp [e2, e3, pmpCheck_setPriv]
    · simp [e2, h.1]
      rw [← h.1]
    · simp [e3]
  next h =>
    rw [if_neg h] at hp
    rw [issue_checkAccess (by simpa using hu) hk]
    simp [e2, e3, hp]

/-- The sequence of a legal MRET as one update of the hart (R355). -/
theorem mretReturn_hart {s : State} (hf : s.hart.fatal = false) {p : Priv}
    (hl : levelOf ((mppOf (mstatusRead s.cfg s.hart.csr.mstatus)).setWidth 12) = some p) :
    (mretReturn s).hart =
      { s.hart with
        csr := { s.hart.csr with
          mstatus := mstatusWrite s.cfg s.hart.csr.mstatus
            (mretStatus s.cfg (mstatusRead s.cfg s.hart.csr.mstatus)) }
        nextPC := s.hart.csr.mepc &&& epcMask s.cfg
        priv := p } := by
  unfold mretReturn
  simp only [ask]
  rw [issue_setPriv (idx := 3) (p := .M) hf (by decide)]
  rw [issue_readCsr (c := .mstatus) (by simpa using hf) (by simpa using csrDefined_mstatus _) (by decide)]
  rw [issue_readCsr (c := .mepc) (by simpa using hf) (by simpa using csrDefined_mepc _) (by decide)]
  rw [issue_writeCsr (c := .mstatus) (by simpa using hf) (by simpa using csrDefined_mstatus _) (by decide) (by decide)]
  rw [issue_writeNextPc (by simpa [csrWrite] using hf)]
  rw [issue_setPriv (p := p) (by simpa [csrWrite] using hf) (by simpa [csrView, csrWrite] using hl)]
  simp [csrView, csrWrite, csrStorageWrite]

/-- MRET at M, outside the fatal state, as one update of the hart. -/
theorem mret_hart (w : BitVec 32) {s : State} (hf : s.hart.fatal = false) (hp : s.hart.priv = .M) {p : Priv}
    (hl : levelOf ((mppOf (mstatusRead s.cfg s.hart.csr.mstatus)).setWidth 12) = some p) :
    (mret w s).hart =
      { s.hart with
        csr := { s.hart.csr with
          mstatus := mstatusWrite s.cfg s.hart.csr.mstatus
            (mretStatus s.cfg (mstatusRead s.cfg s.hart.csr.mstatus)) }
        nextPC := s.hart.csr.mepc &&& epcMask s.cfg
        priv := p } := by
  unfold mret
  simp only [ask, issue_getPriv hf, hp, answer_rdata]
  rw [if_pos (by decide)]
  exact mretReturn_hart (s := s.answer .ok _) hf hl

/-- SPP names S or U. -/
theorem levelOf_sppIdx (m : Word) : levelOf (sppIdx m) = some (if m.getLsbD 8 then .S else .U) := by
  have h : m.getLsbD 8 = (m.extractLsb' 8 1).getLsbD 0 := by simp
  unfold sppIdx
  rw [h]
  generalize m.extractLsb' 8 1 = b
  revert b
  decide

/-- The sequence of a legal SRET as one update of the hart (R356). -/
theorem sretReturn_hart {s : State} (hf : s.hart.fatal = false) (hs : s.cfg.hasS = true) :
    (sretReturn s).hart =
      { s.hart with
        csr := { s.hart.csr with
          mstatus := mstatusWrite s.cfg s.hart.csr.mstatus (sretStatus (mstatusRead s.cfg s.hart.csr.mstatus)) }
        nextPC := s.hart.csr.sepc &&& epcMask s.cfg
        priv := if (mstatusRead s.cfg s.hart.csr.mstatus).getLsbD 8 then .S else .U } := by
  unfold sretReturn
  simp only [ask]
  rw [issue_setPriv (idx := 3) (p := .M) hf (by decide)]
  rw [issue_readCsr (c := .mstatus) (by simpa using hf) (by simpa using csrDefined_mstatus _) (by decide)]
  rw [issue_readCsr (c := .sepc) (by simpa using hf) (by simpa using csrDefined_sepc hs) (by decide)]
  rw [issue_writeCsr (c := .mstatus) (by simpa using hf) (by simpa using csrDefined_mstatus _) (by decide) (by decide)]
  rw [issue_writeNextPc (by simpa [csrWrite] using hf)]
  rw [issue_setPriv (by simpa [csrWrite] using hf) (levelOf_sppIdx _)]
  simp [csrView, csrWrite, csrStorageWrite]

/-- SRET at S with TSR = 0, outside the fatal state, as one update of the hart. -/
theorem sret_hart (w : BitVec 32) {s : State} (hf : s.hart.fatal = false) (hp : s.hart.priv = .S)
    (hs : s.cfg.hasS = true) (ht : (mstatusRead s.cfg s.hart.csr.mstatus).getLsbD 22 = false) :
    (sret w s).hart =
      { s.hart with
        csr := { s.hart.csr with
          mstatus := mstatusWrite s.cfg s.hart.csr.mstatus (sretStatus (mstatusRead s.cfg s.hart.csr.mstatus)) }
        nextPC := s.hart.csr.sepc &&& epcMask s.cfg
        priv := if (mstatusRead s.cfg s.hart.csr.mstatus).getLsbD 8 then .S else .U } := by
  obtain ⟨e1, e2, e3⟩ := readMstatusAsM_eq hf
  have hl : sretLegal s.cfg (s.hart.priv.enc.setWidth 64) (mstatusRead s.cfg s.hart.csr.mstatus) = true := by
    simp only [sretLegal, hs, ht, hp]
    decide
  generalize hu : (readCsrAsM 0x300 s).2 = u at e2 e3
  have h2 : u.hart.fatal = false := by rw [e2]; exact hf
  have hsret : sret w s = if sretLegal (issue .getPriv u).cfg (issue .getPriv u).rdata (readCsrAsM 0x300 s).1
      then sretReturn (issue .getPriv u) else raiseCode 2 (w.setWidth 64) (issue .getPriv u) := by
    rw [← hu]
    rfl
  rw [hsret, issue_getPriv h2, e1]
  simp only [answer_rdata, answer_cfg, e2, e3, csrView]
  rw [if_pos hl, sretReturn_hart (by rw [answer_hart]; exact h2) (by rw [answer_cfg, e3]; exact hs)]
  simp only [answer_hart, answer_cfg, e2, e3]

end Sys2Proof.Machine
end

