-- ==== Sys2Proof/Laws/PerInstr.lean ====
section
/-!
SUPPORT. The one family of statements made per command: a command's request carries the op code of its row in the op-code
table (spec 30_encoding.md R133), and no op code of the table is reserved (R142).
-/

namespace Sys2Proof.Laws.EncodedOp

/-- The op code of each command, written out from the table of R133. -/
def opCode : Instr → Nat
  | .reset => 0x01
  | .readGpr _ => 0x02
  | .writeGpr _ _ => 0x03
  | .readFpr _ => 0x04
  | .writeFpr _ _ => 0x05
  | .readVr _ => 0x06
  | .writeVr _ _ => 0x07
  | .readPc => 0x08
  | .writePc _ => 0x09
  | .readNextPc => 0x0A
  | .writeNextPc _ => 0x0B
  | .readHost _ => 0x0C
  | .writeHost _ _ => 0x0D
  | .readCsr _ => 0x10
  | .writeCsr _ _ => 0x11
  | .isCsrDefined _ => 0x12
  | .setVconfig _ _ => 0x13
  | .setMipPlatform _ => 0x14
  | .getPriv => 0x20
  | .setPriv _ => 0x21
  | .injectException _ _ => 0x22
  | .checkAccess _ _ => 0x30
  | .getPmpaddr _ => 0x31
  | .setPmpaddr _ _ => 0x32
  | .setPmpcfg _ _ => 0x33
  | .decode _ => 0x40

/-- The request that issues the command has the command's op code, and the decoder reads the command back from it. -/
def Statement (i : Instr) : Prop :=
  (Sys2Proof.encode i).op.toNat = opCode i ∧ Sys2Proof.decode (Sys2Proof.encode i) = .ok i

theorem reset : Statement .reset := ⟨rfl, rfl⟩
theorem readGpr (idx : BitVec 12) : Statement (.readGpr idx) := ⟨rfl, rfl⟩
theorem writeGpr (idx : BitVec 12) (data : Word) : Statement (.writeGpr idx data) := ⟨rfl, rfl⟩
theorem readFpr (idx : BitVec 12) : Statement (.readFpr idx) := ⟨rfl, rfl⟩
theorem writeFpr (idx : BitVec 12) (data : Word) : Statement (.writeFpr idx data) := ⟨rfl, rfl⟩
theorem readVr (idx : BitVec 12) : Statement (.readVr idx) := ⟨rfl, rfl⟩
theorem writeVr (idx : BitVec 12) (vdata : VReg) : Statement (.writeVr idx vdata) := ⟨rfl, rfl⟩
theorem readPc : Statement .readPc := ⟨rfl, rfl⟩
theorem writePc (data : Word) : Statement (.writePc data) := ⟨rfl, rfl⟩
theorem readNextPc : Statement .readNextPc := ⟨rfl, rfl⟩
theorem writeNextPc (data : Word) : Statement (.writeNextPc data) := ⟨rfl, rfl⟩
theorem readHost (idx : BitVec 12) : Statement (.readHost idx) := ⟨rfl, rfl⟩
theorem writeHost (idx : BitVec 12) (data : Word) : Statement (.writeHost idx data) := ⟨rfl, rfl⟩
theorem readCsr (idx : BitVec 12) : Statement (.readCsr idx) := ⟨rfl, rfl⟩
theorem writeCsr (idx : BitVec 12) (data : Word) : Statement (.writeCsr idx data) := ⟨rfl, rfl⟩
theorem isCsrDefined (idx : BitVec 12) : Statement (.isCsrDefined idx) := ⟨rfl, rfl⟩
theorem setVconfig (data data2 : Word) : Statement (.setVconfig data data2) := ⟨rfl, rfl⟩
theorem setMipPlatform (data : Word) : Statement (.setMipPlatform data) := ⟨rfl, rfl⟩
theorem getPriv : Statement .getPriv := ⟨rfl, rfl⟩
theorem setPriv (idx : BitVec 12) : Statement (.setPriv idx) := ⟨rfl, rfl⟩
theorem injectException (kind : BitVec 6) (data : Word) : Statement (.injectException kind data) := ⟨rfl, rfl⟩
theorem checkAccess (kind : BitVec 6) (data : Word) : Statement (.checkAccess kind data) := ⟨rfl, rfl⟩
theorem getPmpaddr (idx : BitVec 12) : Statement (.getPmpaddr idx) := ⟨rfl, rfl⟩
theorem setPmpaddr (idx : BitVec 12) (data : Word) : Statement (.setPmpaddr idx data) := ⟨rfl, rfl⟩
theorem setPmpcfg (idx : BitVec 12) (data : Word) : Statement (.setPmpcfg idx data) := ⟨rfl, rfl⟩
theorem decode (data : Word) : Statement (.decode data) := ⟨rfl, rfl⟩

end Sys2Proof.Laws.EncodedOp
end

