-- ==== Sys2Proof/Machine/Script.lean ====
section
/-!
DEFINITION. Command scripts (spec 30_encoding.md R145): one line of a script, already cut into its mnemonic and operand
tokens, to the command it issues. Names are those of R140 (registers), 10_state.md R30 (CSRs) and 60_exceptions.md R380
(exceptions). `step` does not use this file (notes/assumptions/17.md).
-/

namespace Sys2Proof.Machine

/-- One operand of a script line: a name, or a number (decimal or hexadecimal on the page). -/
inductive Token where
  | name (n : String)
  | number (n : Nat)
  deriving DecidableEq, Repr

/-- A number as a field of width `w`: refused when it does not fit. -/
def fieldOf (w : Nat) : Token → Option (BitVec w)
  | .number n => if n < 2 ^ w then some (BitVec.ofNat w n) else none
  | .name _ => none

/-- The position of a name in a list of names, as a field of width `w`. -/
def indexIn (w : Nat) (names : List String) (n : String) : Option (BitVec w) :=
  let k := names.findIdx fun m => m == n
  if k < names.length then some (BitVec.ofNat w k) else none

/-- `xN`, an ABI name or a numeric index (R140, R141). -/
def gprOperand : Token → Option (BitVec 12)
  | .name n => (resolveHandle (.name n)).map fun i => BitVec.ofNat 12 i.val
  | .number n => (resolveHandle (.number n)).map fun i => BitVec.ofNat 12 i.val

/-- `fN` or `vN`, by the file's letter. -/
def fileOperand (letter : String) : Token → Option (BitVec 12)
  | .name n => indexIn 12 ((List.range 32).map fun k => letter ++ toString k) n
  | .number _ => none

/-- `tohost` or `fromhost`. -/
def hostOperand : Token → Option (BitVec 12)
  | .name n => indexIn 12 ["tohost", "fromhost"] n
  | .number _ => none

/-- The script names of the CSRs outside the PMP arrays, with their numbers (R30). -/
def csrNames : List (String × BitVec 12) :=
  [("fflags", 0x001), ("frm", 0x002), ("fcsr", 0x003), ("vstart", 0x008), ("vxsat", 0x009), ("vxrm", 0x00A),
   ("vcsr", 0x00F), ("sstatus", 0x100), ("sie", 0x104), ("stvec", 0x105), ("scounteren", 0x106), ("sscratch", 0x140),
   ("sepc", 0x141), ("scause", 0x142), ("stval", 0x143), ("sip", 0x144)] ++
  [("mstatus", 0x300), ("misa", 0x301), ("medeleg", 0x302), ("mideleg", 0x303), ("mie", 0x304), ("mtvec", 0x305),
   ("mcounteren", 0x306), ("mscratch", 0x340), ("mepc", 0x341), ("mcause", 0x342), ("mtval", 0x343), ("mip", 0x344)] ++
  [("mcycle", 0xB00), ("minstret", 0xB02), ("cycle", 0xC00), ("instret", 0xC02), ("vl", 0xC20), ("vtype", 0xC21),
   ("vlenb", 0xC22), ("mvendorid", 0xF11), ("marchid", 0xF12), ("mimpid", 0xF13), ("mhartid", 0xF14)]

/-- The script names of the PMP CSRs. -/
def pmpCsrNames : List (String × BitVec 12) :=
  ((List.range 16).map fun n => ("pmpcfg" ++ toString n, BitVec.ofNat 12 (0x3A0 + n))) ++
  ((List.range 64).map fun i => ("pmpaddr" ++ toString i, BitVec.ofNat 12 (0x3B0 + i)))

/-- A CSR name or a 12-bit number. -/
def csrOperand : Token → Option (BitVec 12)
  | .name n => (csrNames ++ pmpCsrNames).lookup n
  | .number n => fieldOf 12 (.number n)

/-- `U`, `S` or `M`, as SET_PRIV's `idx`. -/
def levelOperand : Token → Option (BitVec 12)
  | .name "U" => some 0
  | .name "S" => some 1
  | .name "M" => some 3
  | _ => none

/-- The script names of the exception codes, in code order (R380). -/
def exceptionNames : List String :=
  ["IADDR_MISALIGNED", "IACCESS_FAULT", "ILLEGAL_INSTR", "BREAKPOINT", "LADDR_MISALIGNED", "LACCESS_FAULT",
   "SADDR_MISALIGNED", "SACCESS_FAULT", "ECALL_U", "ECALL_S", "RESERVED_10", "ECALL_M", "IPAGE_FAULT", "LPAGE_FAULT",
   "RESERVED_14", "SPAGE_FAULT"]

/-- An exception name or code. -/
def exceptionOperand : Token → Option (BitVec 6)
  | .name n => indexIn 6 exceptionNames n
  | .number n => fieldOf 6 (.number n)

/-- `R`, `W` or `X`. -/
def accessOperand : Token → Option (BitVec 6)
  | .name n => indexIn 6 ["R", "W", "X"] n
  | .number _ => none

/-- One script line as the command it issues (R145's table); `none` for a line R145 does not allow. -/
def assemble (mnemonic : String) (operands : List Token) : Option Instr :=
  match operands with
  | [] =>
    match mnemonic with
    | "RESET" => some .reset
    | "READ_PC" => some .readPc
    | "READ_NEXTPC" => some .readNextPc
    | "GET_PRIV" => some .getPriv
    | _ => none
  | [a] =>
    match mnemonic with
    | "READ_GPR" => (gprOperand a).map .readGpr
    | "READ_FPR" => (fileOperand "f" a).map .readFpr
    | "READ_VR" => (fileOperand "v" a).map .readVr
    | "WRITE_PC" => (fieldOf 64 a).map .writePc
    | "WRITE_NEXTPC" => (fieldOf 64 a).map .writeNextPc
    | "READ_HOST" => (hostOperand a).map .readHost
    | "READ_CSR" => (csrOperand a).map .readCsr
    | "IS_CSR_DEFINED" => (csrOperand a).map .isCsrDefined
    | "SET_MIP_PLATFORM" => (fieldOf 64 a).map .setMipPlatform
    | "SET_PRIV" => (levelOperand a).map .setPriv
    | "GET_PMPADDR" => (fieldOf 12 a).map .getPmpaddr
    | "DECODE" => (fieldOf 64 a).map .decode
    | _ => none
  | [a, b] =>
    match mnemonic with
    | "WRITE_GPR" => do some (.writeGpr (← gprOperand a) (← fieldOf 64 b))
    | "WRITE_FPR" => do some (.writeFpr (← fileOperand "f" a) (← fieldOf 64 b))
    | "WRITE_VR" =>
      match b with
      | .number v => (fileOperand "v" a).map fun i => .writeVr i v
      | .name _ => none
    | "WRITE_HOST" => do some (.writeHost (← hostOperand a) (← fieldOf 64 b))
    | "WRITE_CSR" => do some (.writeCsr (← csrOperand a) (← fieldOf 64 b))
    | "SET_VCONFIG" => do some (.setVconfig (← fieldOf 64 a) (← fieldOf 64 b))
    | "INJECT_EXCEPTION" => do some (.injectException (← exceptionOperand a) (← fieldOf 64 b))
    | "CHECK_ACCESS" => do some (.checkAccess (← accessOperand b) (← fieldOf 64 a))
    | "SET_PMPADDR" => do some (.setPmpaddr (← fieldOf 12 a) (← fieldOf 64 b))
    | "SET_PMPCFG" => do some (.setPmpcfg (← fieldOf 12 a) (← fieldOf 64 b))
    | _ => none
  | _ => none

end Sys2Proof.Machine
end

