-- ==== Sys2Proof/Tests/Slice0.lean ====
section
/-!
SUPPORT. The model's own tests: ill-formed commands are refused by the check, every op code of the table decodes to its
command, one or two single-step tests a command with results from spec/95_test_vectors.md (E1-E8, V1-V133, P1-P5), and
for every obligation with hypotheses a witness that meets them at the boundary values of its clauses.
-/

namespace Sys2Proof.Tests

open Sys2Proof Sys2Proof.Machine

/-! ### Helpers -/

/-- The reset state of TESTCFG with its hart changed by `g`. -/
def bootWith (g : Hart → Hart) : State :=
  { State.reset with hart := g State.reset.hart }

/-- The reset state at a level. -/
def bootAt (p : Priv) : State :=
  bootWith fun h => { h with priv := p }

/-- The reset state with its CSR storage changed by `g`. -/
def bootCsr (g : Csrs → Csrs) : State :=
  bootWith fun h => { h with csr := g h.csr }

/-- The reset state of another PMP_COUNT. -/
def bootPmp (n : PmpCount) : State :=
  State.construct { testcfg with pmpCount := n }

/-- A PMP table of entries given from entry 0 up as (configuration byte, address), at a level. -/
def bootTable (p : Priv) (entries : List (BitVec 8 × BitVec 54)) : State :=
  bootWith fun h =>
    { h with
      priv := p
      pmpcfg := Vector.ofFn fun i => ((entries.map Prod.fst)[i.val]?).getD 0
      pmpaddr := Vector.ofFn fun i => ((entries.map Prod.snd)[i.val]?).getD 0 }

/-- What a command answers: its status and `rdata`. -/
def answered (i : Instr) (s : State) : Option (Status × Word) :=
  (issue i s).response.map fun r => (r.status, r.rdata)

/-- The hart a command leaves. -/
def left (i : Instr) (s : State) : Hart :=
  (issue i s).hart

/-- The state with these requests on the port. -/
def withRequests (s : State) (rs : List Request) : State :=
  { s with requests := rs }

/-! ### Well-formedness: an ill-formed command for each check (R135), and its neighbour inside the domain -/

theorem test_wf_gpr_index : (Instr.readGpr 32).wellFormed = false ∧ (Instr.readGpr 31).wellFormed = true ∧
    (Instr.writeGpr 32 0).wellFormed = false ∧ (Instr.writeGpr 31 0).wellFormed = true := by decide

theorem test_wf_fpr_index : (Instr.readFpr 32).wellFormed = false ∧ (Instr.writeFpr 0xFFF 0).wellFormed = false ∧
    (Instr.writeFpr 31 0).wellFormed = true := by decide

theorem test_wf_vr_index : (Instr.readVr 32).wellFormed = false ∧ (Instr.writeVr 33 0).wellFormed = false ∧
    (Instr.writeVr 0 0).wellFormed = true := by decide

theorem test_wf_host_select : (Instr.readHost 2).wellFormed = false ∧ (Instr.writeHost 2 0).wellFormed = false ∧
    (Instr.writeHost 1 0).wellFormed = true := by decide

theorem test_wf_level : (Instr.setPriv 2).wellFormed = false ∧ (Instr.setPriv 4).wellFormed = false ∧
    (Instr.setPriv 3).wellFormed = true := by decide

theorem test_wf_exception_code : (Instr.injectException 16 0).wellFormed = false ∧
    (Instr.injectException 15 0).wellFormed = true := by decide

theorem test_wf_access_kind : (Instr.checkAccess 3 0).wellFormed = false ∧
    (Instr.checkAccess 2 0).wellFormed = true := by decide

theorem test_wf_instr_word : (Instr.decode 0x100000000).wellFormed = false ∧
    (Instr.decode 0xFFFFFFFF).wellFormed = true := by decide

/-! ### Decoding: every op code of R133's table, and requests of P1 and P2 with their fields in place -/

theorem test_decode_registers :
    decodeTableWord 8 0b00000010 = some (.readGpr 0) ∧ decodeTableWord 8 0b00000011 = some (.writeGpr 0 0) ∧
    decodeTableWord 8 0b00000100 = some (.readFpr 0) ∧ decodeTableWord 8 0b00000101 = some (.writeFpr 0 0) ∧
    decodeTableWord 8 0b00000110 = some (.readVr 0) ∧ decodeTableWord 8 0b00000111 = some (.writeVr 0 0) := by decide

theorem test_decode_counters_and_host :
    decodeTableWord 8 0b00001000 = some .readPc ∧ decodeTableWord 8 0b00001001 = some (.writePc 0) ∧
    decodeTableWord 8 0b00001010 = some .readNextPc ∧ decodeTableWord 8 0b00001011 = some (.writeNextPc 0) ∧
    decodeTableWord 8 0b00001100 = some (.readHost 0) ∧ decodeTableWord 8 0b00001101 = some (.writeHost 0 0) := by decide

theorem test_decode_csr :
    decodeTableWord 8 0b00010000 = some (.readCsr 0) ∧ decodeTableWord 8 0b00010001 = some (.writeCsr 0 0) ∧
    decodeTableWord 8 0b00010010 = some (.isCsrDefined 0) ∧ decodeTableWord 8 0b00010011 = some (.setVconfig 0 0) ∧
    decodeTableWord 8 0b00010100 = some (.setMipPlatform 0) := by decide

theorem test_decode_privilege :
    decodeTableWord 8 0b00100000 = some .getPriv ∧ decodeTableWord 8 0b00100001 = some (.setPriv 0) ∧
    decodeTableWord 8 0b00100010 = some (.injectException 0 0) := by decide

theorem test_decode_pmp :
    decodeTableWord 8 0b00110000 = some (.checkAccess 0 0) ∧ decodeTableWord 8 0b00110001 = some (.getPmpaddr 0) ∧
    decodeTableWord 8 0b00110010 = some (.setPmpaddr 0 0) ∧ decodeTableWord 8 0b00110011 = some (.setPmpcfg 0 0) := by
  decide

theorem test_decode_lifecycle :
    decodeTableWord 8 0b00000001 = some .reset ∧ decodeTableWord 8 0b01000000 = some (.decode 0) := by decide

/-- P1 step 1: `11 305 0 0000_0000_8000_0000`. -/
theorem test_decode_request_of_P1 :
    Sys2Proof.decode ⟨0x11, 0x305, 0, 0x80000000, 0, 0⟩ = .ok (.writeCsr 0x305 0x80000000) := by rfl

/-- P2 step 13: `22 000 7 0000_0000_8000_0100`. -/
theorem test_decode_request_of_P2 :
    Sys2Proof.decode ⟨0x22, 0, 7, 0x80000100, 0, 0⟩ = .ok (.injectException 7 0x80000100) := by rfl

/-- V1-V3, and the first and last code of every reserved range of R142. -/
theorem test_reserved_op_codes :
    [0x00, 0x0E, 0x0F, 0x15, 0x1F, 0x23, 0x2F, 0x34, 0x3F, 0x41, 0xFF].all
      (fun w => (decodeTableWord 8 w).isNone) = true := by decide

/-! ### The port (V1, V4, V9-V12) -/

theorem test_V1_bad_op :
    (match step (withRequests State.reset [bareRequest 0x00]) with
      | .next t => t.response.map Response.status == some .badOp
      | _ => false) = true := by decide

theorem test_V11_fatal_before_bad_op :
    (match step (withRequests (bootWith fun h => { h with fatal := true }) [bareRequest 0x00]) with
      | .next t => t.response.map Response.status == some .fatal
      | _ => false) = true := by decide

theorem test_idle_step : step State.reset = .next State.reset := by rfl

theorem test_step_takes_one_request :
    (match step (withRequests State.reset [bareRequest 0x08, bareRequest 0x20]) with
      | .next t => t.requests == [bareRequest 0x20]
      | _ => false) = true := by decide

theorem test_fetch_word_runs_the_command :
    step (State.reset.withFetchWord 8 0x20) = exec .getPriv State.reset := by rfl

/-! ### Register files, program counters, host registers (V20-V31) -/

theorem test_V21_read_gpr :
    answered (.readGpr 5) (bootWith fun h => { h with x := h.x.set 4 0x1234 }) = some (.ok, 0x1234) := by decide

theorem test_V4_read_gpr_bad_operand : answered (.readGpr 32) State.reset = some (.badOperand, 0) := by decide

theorem test_E2_write_gpr :
    (left (.writeGpr 31 0x8000000000000001) State.reset).readX 31 = 0x8000000000000001 := by decide

theorem test_V22_write_x0 : (left (.writeGpr 0 0xFFFFFFFFFFFFFFFF) State.reset).x = State.reset.hart.x ∧
    (left (.writeGpr 0 0xFFFFFFFFFFFFFFFF) State.reset).readX 0 = 0 := by decide

theorem test_V24_read_fpr :
    answered (.readFpr 0) (bootWith fun h => { h with f := h.f.set 0 0x3FF0000000000000 }) =
      some (.ok, 0x3FF0000000000000) := by decide

theorem test_V25_write_fpr : (left (.writeFpr 1 0xFFFFFFFF3F800000) State.reset).readF 1 = 0xFFFFFFFF3F800000 ∧
    (left (.writeFpr 1 0xFFFFFFFF3F800000) State.reset).csr.mstatus = 0 := by decide

theorem test_V26_read_vr :
    (issue (.readVr 2) (bootWith fun h => { h with v := h.v.set 2 0x0102030405060708090A0B0C0D0E0F10 })).response.map
      (fun r => (r.status, r.rdata, r.rvdata)) = some (.ok, 0, 0x0102030405060708090A0B0C0D0E0F10) := by decide

theorem test_V26_write_vr :
    (left (.writeVr 2 0x0102030405060708090A0B0C0D0E0F10) State.reset).readV 2 =
      0x0102030405060708090A0B0C0D0E0F10 := by decide

theorem test_V28_write_pc : (left (.writePc 0x80000001) State.reset).pc = 0x80000001 := by decide

theorem test_V28_read_pc :
    answered .readPc (bootWith fun h => { h with pc := 0x80000001 }) = some (.ok, 0x80000001) := by decide

theorem test_V29_write_next_pc : (left (.writeNextPc 0x80000004) State.reset).nextPC = 0x80000004 ∧
    (left (.writeNextPc 0x80000004) State.reset).pc = 0 := by decide

theorem test_V29_read_next_pc :
    answered .readNextPc (bootWith fun h => { h with nextPC := 0x80000004 }) = some (.ok, 0x80000004) := by decide

theorem test_V30_write_host : (left (.writeHost 0 1) State.reset).tohost = 1 ∧
    (left (.writeHost 0 1) State.reset).fromhost = 0 := by decide

theorem test_V30_read_host :
    answered (.readHost 0) (bootWith fun h => { h with tohost := 1 }) = some (.ok, 1) ∧
    answered (.readHost 1) (bootWith fun h => { h with tohost := 1 }) = some (.ok, 0) := by decide

/-! ### The CSR file (V40-V77) -/

/-- V44, V90: the masked views of `sstatus` and `mepc`. -/
theorem test_V44_read_views :
    answered (.readCsr 0x100) (bootCsr fun k => { k with mstatus := 0x7E7FAA }) = some (.ok, 0x80000002000C6722) ∧
    answered (.readCsr 0x341) (bootCsr fun k => { k with mepc := 0x1001 }) = some (.ok, 0x1000) := by decide

theorem test_V74_read_mstatus_at_U : answered (.readCsr 0x300) (bootAt .U) = some (.csrUndefined, 0) := by decide

/-- V43, V45, V46, V55, V57, V59, V60, V64, V65, V66: one write of each legalization rule. -/
theorem test_V43_write_csr_rules :
    (left (.writeCsr 0x300 0xFFFFFFFFFFFFFFFF) State.reset).csr.mstatus = 0x7E7FAA ∧
    (left (.writeCsr 0x100 0xFFFFFFFFFFFFFFFF) State.reset).csr.mstatus = 0xC6722 ∧
    (left (.writeCsr 0x300 0x1000) State.reset).csr.mstatus = 0 ∧
    (left (.writeCsr 0x144 0) (bootCsr fun k => { k with mip := 0xAAA, mideleg := 0x222 })).csr.mip = 0xAA8 ∧
    (left (.writeCsr 0x305 0x80000103) State.reset).csr.mtvec = 0x80000100 ∧
    (left (.writeCsr 0x305 2) (bootCsr fun k => { k with mtvec := 0x80000101 })).csr.mtvec = 1 ∧
    (left (.writeCsr 0x341 0x80000003) State.reset).csr.mepc = 0x80000002 ∧
    (left (.writeCsr 0x001 0x100) (bootCsr fun k => { k with fcsr := 0xFF })).csr.fcsr = 0xE0 ∧
    (left (.writeCsr 0x008 130) State.reset).csr.vstart = 2 ∧
    (left (.writeCsr 0x00F 7) State.reset).csr.vxrm = 3 := by decide

theorem test_V33_write_cycle : answered (.writeCsr 0xC00 1) State.reset = some (.csrReadOnly, 0) := by decide

theorem test_V71_is_csr_defined : answered (.isCsrDefined 0x3BF) State.reset = some (.ok, 1) ∧
    answered (.isCsrDefined 0x3C0) State.reset = some (.ok, 0) := by decide

theorem test_V72_even_pmpcfg : answered (.isCsrDefined 0x3A2) State.reset = some (.ok, 1) ∧
    answered (.isCsrDefined 0x3A1) State.reset = some (.ok, 0) ∧
    answered (.isCsrDefined 0x3A4) State.reset = some (.ok, 0) := by decide

theorem test_V69_set_vconfig : (left (.setVconfig 4 0x10) State.reset).csr.vl = 4 ∧
    (left (.setVconfig 4 0x10) State.reset).csr.vtype = 0x10 := by decide

theorem test_V53_set_mip_platform :
    (left (.setMipPlatform 0x888) (bootCsr fun k => { k with mip := 0x222 })).csr.mip = 0xAAA := by decide

theorem test_V56_clear_mip_platform :
    (left (.setMipPlatform 0) (bootCsr fun k => { k with mip := 0xAAA })).csr.mip = 0x222 := by decide

/-! ### Privilege and trap entry (V80-V91) -/

theorem test_V80_get_priv : answered .getPriv State.reset = some (.ok, 3) ∧
    answered .getPriv (bootAt .U) = some (.ok, 0) := by decide

theorem test_V81_set_priv : (left (.setPriv 0) State.reset).priv = .U := by decide

theorem test_V5_set_priv_2 : answered (.setPriv 2) State.reset = some (.badOperand, 0) ∧
    (left (.setPriv 2) State.reset).priv = .M := by decide

/-- V82, V87: a trap taken to M from M with MIE = 1. -/
theorem test_V82_trap_to_M :
    (let s := bootWith fun h => { h with pc := 0x1000, csr := { h.csr with mtvec := 0x80000000, mstatus := 0x8 } }
     let h := left (.injectException 2 0xFFFF) s
     answered (.injectException 2 0xFFFF) s == some (.ok, 3) && h.csr.mepc == 0x1000 && h.csr.mcause == 2 &&
     h.csr.mtval == 0xFFFF && h.csr.mstatus == 0x1880 && h.priv == .M && h.nextPC == 0x80000000 &&
     h.pc == 0x1000) = true := by decide

/-- V84: a delegated trap from U to S, in Vectored mode. -/
theorem test_V84_trap_to_S :
    (let s := bootWith fun h =>
       { h with pc := 0x10000, priv := .U, csr := { h.csr with medeleg := 0x100, stvec := 0x80001001 } }
     let h := left (.injectException 8 0) s
     answered (.injectException 8 0) s == some (.ok, 1) && h.csr.sepc == 0x10000 && h.csr.scause == 8 &&
     h.csr.mstatus == 0 && h.priv == .S && h.nextPC == 0x80001000 && h.csr.mepc == 0) = true := by decide

/-! ### The PMP (V9, V13-V16, V100-V125) -/

/-- V102, V108: a partial match fails, at M too. -/
theorem test_V102_partial_match :
    answered (.checkAccess 0 0x80000FFC) (bootTable .U [(0, 0x20000000), (0x09, 0x20000400)]) = some (.ok, 0x45) ∧
    answered (.checkAccess 0 0x80000FFC) (bootTable .M [(0, 0x20000000), (0x09, 0x20000400)]) = some (.ok, 0x45) := by
  decide

/-- V101, V110, V115: TOR and NAPOT ranges, and the first match deciding. -/
theorem test_V110_ranges :
    answered (.checkAccess 0 0x80000FF8) (bootTable .U [(0, 0x20000000), (0x09, 0x20000400)]) = some (.ok, 0) ∧
    answered (.checkAccess 1 0x80000FF8) (bootTable .U [(0x1B, 0x200001FF)]) = some (.ok, 0) ∧
    answered (.checkAccess 0 0x80000000) (bootTable .U [(0x18, 0x200001FF), (0x1F, 0x3FFFFFFFFFFFFF)]) =
      some (.ok, 0x45) := by decide

theorem test_V122_get_pmpaddr :
    answered (.getPmpaddr 3) (bootTable .M [(0, 0), (0, 0), (0, 0), (0, 0x3FFFFFFFFFFFFF)]) =
      some (.ok, 0x003FFFFFFFFFFFFF) := by decide

theorem test_V9_get_pmpaddr_out_of_range : answered (.getPmpaddr 16) State.reset = some (.fatal, 0) ∧
    (left (.getPmpaddr 16) State.reset).fatal = true := by decide

theorem test_V15_set_pmpaddr : (left (.setPmpaddr 15 7) State.reset).addrField 15 = 7 := by decide

/-- V120, V121: a locked TOR entry protects the address below it, a locked NAPOT entry does not. -/
theorem test_V120_locked_tor :
    (left (.setPmpaddr 0 5) (bootTable .M [(0, 0), (0x88, 0)])).addrField 0 = 0 ∧
    (left (.setPmpaddr 0 5) (bootTable .M [(0, 0), (0x98, 0)])).addrField 0 = 5 := by decide

/-- V119: a locked byte is kept and its neighbour written. -/
theorem test_V119_set_pmpcfg :
    (let h := left (.setPmpcfg 0 0x0707) (bootTable .M [(0x81, 0)])
     h.cfgByte 0 == 0x81 && h.cfgByte 1 == 0x07) = true := by decide

theorem test_V14_set_pmpcfg_out_of_range : answered (.setPmpcfg 4 0) State.reset = some (.fatal, 0) ∧
    answered (.setPmpcfg 1 0) State.reset = some (.fatal, 0) := by decide

/-! ### Decode and reset (V8, V12, V17, V130) -/

theorem test_V130_decode :
    (issue (.decode 0x13) State.reset).response =
      some { status := .ok, rdata := 0, rvdata := 0, roper := decodeFn 0x13 } := by rfl

theorem test_V8_decode_bad_operand : answered (.decode 0x100000000) State.reset = some (.badOperand, 0) := by decide

theorem test_V12_reset_clears_fatal :
    left .reset (bootWith fun h => { h with fatal := true, priv := .U, x := h.x.set 0 5 }) = State.reset.hart := by rfl

/-! ### The engine's sequences and scripts -/

/-- P5: SRET from the end state of P1, with `sepc` advanced. -/
theorem test_P5_sret :
    (let s := bootWith fun h => { h with priv := .S, csr := { h.csr with mstatus := 0x80, sepc := 0x10004 } }
     let h := (sret 0x10200073 s).hart
     h.priv == .U && h.nextPC == 0x10004 && h.csr.mstatus == 0xA0) = true := by decide

/-- P1, steps 7 to 11: MRET to U. -/
theorem test_P1_mret :
    (let s := bootCsr fun k => { k with mepc := 0x10000 }
     let h := (mret 0x30200073 s).hart
     h.priv == .U && h.nextPC == 0x10000 && h.csr.mstatus == 0x80) = true := by decide

/-- R357: `fadd`-like acts with FS = 0 trap with the word; with FS = 1 they write the register and leave FS = 3. -/
theorem test_R357_fp_instruction :
    (let run := fun m : Word => (executeOp (.compute ⟨true, false⟩ [.write (.fpr 3 0x55)]) 0x53
       (bootCsr fun k => { k with mstatus := m })).hart
     (run 0).csr.mcause == 2 && (run 0).csr.mtval == 0x53 && (run 0).readF 3 == 0 &&
     (run 0x2000).csr.mcause == 0 && (run 0x2000).readF 3 == 0x55 && (run 0x2000).csr.mstatus == 0x6000) = true := by decide

/-- R357: SET_VCONFIG inside a vector instruction leaves VS = 3. -/
theorem test_R357_vector_configuration :
    (let h := (executeOp (.compute ⟨false, true⟩ [.write (.vconfig 4 0xC8), .write (.gpr 5 4)]) 0x57
       (bootCsr fun k => { k with mstatus := 0x400 })).hart
     h.csr.vl == 4 && h.csr.vtype == 0xC8 && h.readX 5 == 4 && h.csr.mstatus == 0x600) = true := by decide

/-- R362: only a misaligned access can raise 4 or 6, and a trapped access ends the instruction. -/
theorem test_R362_misaligned :
    (let run := fun (a : Word) (c : Bool) => (executeOp (.compute ⟨false, false⟩
       [.access ⟨.store, .b4, a, c⟩, .write (.gpr 1 7)]) 0x23 State.reset).hart
     (run 0x1002 true).csr.mcause == 6 && (run 0x1002 true).csr.mtval == 0x1002 && (run 0x1002 true).readX 1 == 0 &&
     (run 0x1004 true).csr.mcause == 0 && (run 0x1004 true).readX 1 == 7 && (run 0x1002 false).readX 1 == 7) = true := by
  decide

/-- An engine whose memory holds one ECALL word at every address. -/
def ecallEngine : Engine where
  memory := fun a => if a.toNat % 4 = 0 then 0x73 else 0
  length := fun _ => .four
  interpret := fun _ _ _ => .ecall

/-- R350: a fetch that the PMP denies takes the access fault at `pc`, and STEP moves `pc` to the handler. -/
theorem test_R350_fetch_fault :
    (let h := (engineStep ecallEngine (bootWith fun h =>
       { h with priv := .U, pc := 0x1000, csr := { h.csr with mtvec := 0x400 } })).hart
     h.pc == 0x400 && h.csr.mcause == 1 && h.csr.mtval == 0x1000 && h.csr.mepc == 0x1000 && h.priv == .M) = true := by
  decide

theorem test_R350_fetch_little_endian : ecallEngine.fetch 0x1000 = 0x73 ∧ ecallEngine.fetch 0x1001 = 0x73000000 := by
  decide

theorem test_R140_names : resolveHandle (.name "t6") = some 31 ∧ resolveHandle (.name "fp") = some 8 ∧
    resolveHandle (.name "x32") = none ∧ resolveHandle (.number 32) = none := by decide

theorem test_R145_script :
    assemble "INJECT_EXCEPTION" [.name "ECALL_U", .number 0] = some (.injectException 8 0) ∧
    assemble "WRITE_CSR" [.name "mtvec", .number 0x100] = some (.writeCsr 0x305 0x100) ∧
    assemble "CHECK_ACCESS" [.number 0x10000, .name "X"] = some (.checkAccess 2 0x10000) := by decide

/-! ### Witnesses: for every obligation with hypotheses, a state and operands that meet them, clause by clause -/

/-- A fatal state, and a pending request on it. -/
def fatalBoot : State :=
  bootWith fun h => { h with fatal := true }

theorem witness_FatalStateAbsorbsUntilReset :
    (State.reset.hart.fatal = false ∧ State.reset.cfg.pmpCount.toNat ≤ (16#12).toNat) ∧
    (State.reset.hart.fatal = false ∧ (1#12).toNat % 2 = 1) ∧
    (State.reset.hart.fatal = false ∧ State.reset.cfg.pmpCount.toNat ≤ 4 * (4#12).toNat) ∧
    ((withRequests fatalBoot [bareRequest 0x00]).hart.fatal = true ∧
      (withRequests fatalBoot [bareRequest 0x00]).requests = bareRequest 0x00 :: [] ∧
      (bareRequest 0x00).op ≠ 0x01#8) ∧
    ((withRequests fatalBoot [bareRequest 0x01]).requests = bareRequest 0x01 :: [] ∧
      (bareRequest 0x01).op = 0x01#8) := by
  decide

theorem witness_OperandOutOfDomainAnswersBadOperand :
    State.reset.hart.fatal = false ∧ OutOfDomain (.readGpr 32) ∧ ¬ OutOfDomain (.readGpr 31) ∧
    OutOfDomain (.writeVr 32 0) ∧ ¬ OutOfDomain (.writeVr 31 0) ∧ OutOfDomain (.readHost 2) ∧
    ¬ OutOfDomain (.readHost 1) ∧ OutOfDomain (.setPriv 2) ∧ OutOfDomain (.setPriv 4) ∧ ¬ OutOfDomain (.setPriv 3) ∧
    OutOfDomain (.injectException 16 0) ∧ ¬ OutOfDomain (.injectException 15 0) ∧ OutOfDomain (.checkAccess 3 0) ∧
    ¬ OutOfDomain (.checkAccess 2 0) ∧ OutOfDomain (.decode 0x100000000) ∧ ¬ OutOfDomain (.decode 0xFFFFFFFF) ∧
    ¬ OutOfDomain (.getPmpaddr 0xFFF) := by
  simp only [OutOfDomain]
  decide

theorem witness_ChecksAreJudgedInOrder :
    ((withRequests fatalBoot [bareRequest 0x41]).requests = bareRequest 0x41 :: [] ∧ fatalBoot.hart.fatal = true ∧
      (bareRequest 0x41).op ≠ 0x01#8) ∧
    ((withRequests State.reset [bareRequest 0x41]).requests = bareRequest 0x41 :: [] ∧
      State.reset.hart.fatal = false ∧ ReservedOp (bareRequest 0x41).op.toNat) ∧
    (Sys2Proof.decode ⟨0x21, 2, 0, 0, 0, 0⟩ = .ok (.setPriv 2) ∧ OutOfDomain (.setPriv 2)) ∧
    (Sys2Proof.decode ⟨0x21, 3, 0, 0, 0, 0⟩ = .ok (.setPriv 3) ∧ ¬ OutOfDomain (.setPriv 3)) ∧
    (Sys2Proof.decode (bareRequest 0x01) = .ok .reset ∧ (bareRequest 0x01).op = 0x01#8 ∧ ¬ OutOfDomain .reset) := by
  refine ⟨by decide, ⟨rfl, rfl, ?_⟩, ⟨rfl, ?_⟩, ⟨rfl, ?_⟩, rfl, rfl, ?_⟩ <;> simp only [ReservedOp, OutOfDomain] <;>
    decide

theorem witness_OpCodeTable :
    (bareRequest 0x01).op = 0x01 ∧ (bareRequest 0x40).op = 0x40 ∧ ReservedOp (bareRequest 0xFF).op.toNat := by
  refine ⟨rfl, rfl, ?_⟩
  simp only [ReservedOp]
  decide

theorem witness_ReservedOpCodesAnswerBadOp :
    State.reset.hart.fatal = false ∧
    (withRequests State.reset [bareRequest 0x0E]).requests = bareRequest 0x0E :: [] ∧
    [0x00, 0x0E, 0x0F, 0x15, 0x1F, 0x23, 0x2F, 0x34, 0x3F, 0x41, 0xFF].all
      (fun op => decide (op = 0x00 ∨ (0x0E ≤ op ∧ op ≤ 0x0F) ∨ (0x15 ≤ op ∧ op ≤ 0x1F) ∨ (0x23 ≤ op ∧ op ≤ 0x2F) ∨
        (0x34 ≤ op ∧ op ≤ 0x3F) ∨ (0x41 ≤ op ∧ op ≤ 0xFF))) = true ∧
    ReservedOp (bareRequest 0x0E).op.toNat := by
  simp only [ReservedOp]
  decide

theorem witness_StepRunsTheDecodedCommand :
    (withRequests State.reset [bareRequest 0x40, bareRequest 0x01]).requests =
      bareRequest 0x40 :: [bareRequest 0x01] ∧
    Sys2Proof.decode (bareRequest 0x40) = .ok (.decode 0) ∧ State.reset.requests = [] :=
  ⟨rfl, rfl, rfl⟩

theorem witness_EveryStepAnswersAndKeepsTheConfiguration :
    (withRequests State.reset [bareRequest 0xFF]).requests ≠ [] := by decide

theorem witness_NoPartialFailure :
    (∃ t r, exec (.getPmpaddr 16) State.reset = .next t ∧ t.response = some r ∧ r.status ≠ .ok ∧ r.status = .fatal) ∧
    (∃ t r, exec (.setPriv 2) State.reset = .next t ∧ t.response = some r ∧ r.status ≠ .ok ∧ r.status ≠ .fatal) :=
  ⟨⟨_, _, rfl, rfl, by decide, rfl⟩, ⟨_, _, rfl, rfl, by decide, by decide⟩⟩

theorem witness_DecodeReadsOnlyNamedFields :
    (⟨0x22, 5, 7, 9, 1, 1⟩ : Request).op = (⟨0x22, 6, 7, 9, 2, 3⟩ : Request).op ∧
    (⟨0x22, 5, 7, 9, 1, 1⟩ : Request).kind = (⟨0x22, 6, 7, 9, 2, 3⟩ : Request).kind ∧
    (⟨0x22, 5, 7, 9, 1, 1⟩ : Request).data = (⟨0x22, 6, 7, 9, 2, 3⟩ : Request).data ∧
    (⟨0x22, 5, 7, 9, 1, 1⟩ : Request) ≠ ⟨0x22, 6, 7, 9, 2, 3⟩ := by decide

/-- The register indices at the ends of their ranges. -/
theorem witness_ReadGprAnswersTheRegister :
    State.reset.hart.fatal = false ∧ (0x000#12 = 0) ∧ (1#12).toNat = (0 : Fin 31).val + 1 ∧
    (31#12).toNat = (30 : Fin 31).val + 1 ∧ 31 < (32#12).toNat := by decide

theorem witness_WriteGprStoresVerbatim :
    State.reset.hart.fatal = false ∧ (0 < (1#12).toNat ∧ (1#12).toNat ≤ 31) ∧
    (0 < (31#12).toNat ∧ (31#12).toNat ≤ 31) ∧ 31 < (32#12).toNat := by decide

theorem witness_FprCommandsMoveSixtyFourBits :
    State.reset.hart.fatal = false ∧ (0#12).toNat = (0 : RegIndex).val ∧ (31#12).toNat = (31 : RegIndex).val ∧
    31 < (32#12).toNat := by decide

theorem witness_VrCommandsMoveVlenBits :
    State.reset.hart.fatal = false ∧ (0#12).toNat = (0 : RegIndex).val ∧ (31#12).toNat = (31 : RegIndex).val ∧
    0xFFFFFFFFFFFFFFFFFFFFFFFFFFFFFFFF < 2 ^ State.reset.cfg.vlen ∧ 31 < (32#12).toNat := by decide

theorem witness_WriteVrTakesTheLowVlenBits :
    State.reset.hart.fatal = false ∧ (31#12).toNat = (31 : RegIndex).val ∧
    (left (.writeVr 31 (2 ^ 128 + 5)) State.reset).readV 31 = 5 := by decide

theorem witness_ProgramCounterCommands : State.reset.hart.fatal = false := by decide

theorem witness_HostRegisterCommands :
    State.reset.hart.fatal = false ∧ (0#12 = 0) ∧ (1#12 = 1) ∧ 1 < (2#12).toNat := by decide

theorem witness_RegisterFileLaws :
    State.reset.hart.fatal = false ∧ (31#12).toNat ≤ 31 ∧ (0#12).toNat ≤ 31 ∧ 31#12 ≠ 0 ∧ 0#12 ≠ 31#12 := by decide

/-- `pmpaddr15` is defined at M and `pmpaddr16` is not; `cycle` is defined at U and `mstatus` is not. -/
theorem witness_IsCsrDefinedAnswersVisibility :
    State.reset.hart.fatal = false ∧
    (csrExists State.reset.cfg 0x3BF = true ∧ (0x3BF#12).toNat / 256 % 4 ≤ State.reset.hart.priv.enc.toNat) ∧
    csrExists State.reset.cfg 0x3C0 = false ∧
    (csrExists (bootAt .U).cfg 0xC00 = true ∧ (0xC00#12).toNat / 256 % 4 ≤ (bootAt .U).hart.priv.enc.toNat) ∧
    ¬ ((0x300#12).toNat / 256 % 4 ≤ (bootAt .U).hart.priv.enc.toNat) := by decide

theorem witness_UndefinedCsrIsRejected :
    State.reset.hart.fatal = false ∧ csrDefined State.reset.cfg State.reset.hart.priv 0x3C0 = false ∧
    csrDefined State.reset.cfg State.reset.hart.priv 0x3BF = true ∧
    csrDefined (bootAt .U).cfg (bootAt .U).hart.priv 0x300 = false := by decide

/-- Every row of the read table is defined at M under TESTCFG, the last PMP registers too. -/
theorem witness_ReadCsrAnswersTheTable :
    State.reset.hart.fatal = false ∧
    [0x001#12, 0x002, 0x003, 0x008, 0x009, 0x00A, 0x00F, 0x100, 0x104, 0x105, 0x106, 0x140, 0x141, 0x142, 0x143, 0x144,
      0x300, 0x301, 0x302, 0x303, 0x304, 0x305, 0x306, 0x340, 0x341, 0x342, 0x343, 0x344, 0xB00, 0xB02, 0xC00, 0xC02,
      0xC20, 0xC21, 0xC22, 0xF11, 0xF12, 0xF13, 0xF14].all
      (fun id => csrDefined State.reset.cfg State.reset.hart.priv id) = true ∧
    csrDefined State.reset.cfg State.reset.hart.priv (BitVec.ofNat 12 (0x3A0 + 2)) = true ∧
    csrDefined (bootPmp .sixtyFour).cfg (bootPmp .sixtyFour).hart.priv (BitVec.ofNat 12 (0x3A0 + 14)) = true ∧
    csrDefined (bootPmp .sixtyFour).cfg (bootPmp .sixtyFour).hart.priv (BitVec.ofNat 12 (0x3B0 + 63)) = true := by
  decide

theorem witness_WriteCsrStatuses :
    State.reset.hart.fatal = false ∧ csrDefined State.reset.cfg State.reset.hart.priv 0x3C0 = false ∧
    (csrDefined State.reset.cfg State.reset.hart.priv 0xC00 = true ∧ (0xC00#12).toNat / 1024 = 3) ∧
    (csrDefined State.reset.cfg State.reset.hart.priv 0xB02 = true ∧ (0xB02#12).toNat / 1024 ≠ 3) := by decide

theorem witness_MstatusReadValue :
    63 < 64 ∧ [11, 12, 33, 35, 63].all (fun j => decide (j < 64)) = true := by decide

/-- The registers are defined at M under TESTCFG; the written values take each branch of MPP's rule. -/
theorem witness_StatusWritesAreLegalized :
    State.reset.hart.fatal = false ∧
    [0x300#12, 0x100, 0x301].all (fun id => csrDefined State.reset.cfg State.reset.hart.priv id) = true ∧
    (0x1800#64).extractLsb' 11 2 = 3#2 ∧ ((0x0800#64).extractLsb' 11 2 = 1#2 ∧ State.reset.cfg.hasS = true) ∧
    ((0x0000#64).extractLsb' 11 2 = 0#2 ∧ State.reset.cfg.hasU = true) ∧ (0x1000#64).extractLsb' 11 2 = 2#2 := by
  decide

theorem witness_InterruptAndDelegationWrites :
    State.reset.hart.fatal = false ∧
    [0x302#12, 0x303, 0x304, 0x344, 0x104, 0x144].all
      (fun id => csrDefined State.reset.cfg State.reset.hart.priv id) = true ∧
    (bootAt .S).hart.fatal = false ∧
    [0x104#12, 0x144].all (fun id => csrDefined (bootAt .S).cfg (bootAt .S).hart.priv id) = true := by decide

theorem witness_TrapVectorAndEpcWrites :
    State.reset.hart.fatal = false ∧
    [0x305#12, 0x105, 0x341, 0x141].all (fun id => csrDefined State.reset.cfg State.reset.hart.priv id) = true ∧
    (0x1#64).extractLsb' 0 2 = 1#2 ∧ (0x2#64).extractLsb' 0 2 ≠ 0#2 ∧ (0x2#64).extractLsb' 0 2 ≠ 1#2 := by decide

theorem witness_FullWidthAndCounterEnableWrites :
    State.reset.hart.fatal = false ∧
    [0x340#12, 0x140, 0x342, 0x142, 0x343, 0x143, 0xB00, 0xB02, 0x306, 0x106].all
      (fun id => csrDefined State.reset.cfg State.reset.hart.priv id) = true := by decide

theorem witness_FpAndVectorCsrWrites :
    (bootAt .U).hart.fatal = false ∧
    [0x001#12, 0x002, 0x003, 0x008, 0x009, 0x00A, 0x00F].all
      (fun id => csrDefined (bootAt .U).cfg (bootAt .U).hart.priv id) = true := by decide

theorem witness_PlatformCommands : (bootAt .U).hart.fatal = false := by decide

theorem witness_PrivilegeCommands :
    ((bootAt .U).hart.fatal = false ∧ (bootAt .U).hart.priv = .U) ∧
    ((bootAt .S).hart.fatal = false ∧ (bootAt .S).hart.priv = .S) ∧
    (State.reset.hart.fatal = false ∧ State.reset.hart.priv = .M) ∧
    (0#12 = 0) ∧ (1#12 = 1) ∧ (3#12 = 3) ∧ (2#12).toNat = 2 ∧ 3 < (4#12).toNat := by decide

/-- The state of V84 before its trap: at U, with ECALL from U delegated, under every configuration field of TESTCFG. -/
def delegated : State :=
  bootWith fun h => { h with pc := 0x10000, priv := .U, csr := { h.csr with medeleg := 0x8101, stvec := 0x80001001 } }

/-- Both targets, at the first and the last code; at M nothing is delegated. -/
theorem witness_InjectExceptionEntersTheTrap :
    delegated.hart.fatal = false ∧
    ((0#6).toNat ≤ 15 ∧ delegated.cfg.hasS = true ∧ delegated.hart.csr.medeleg.getLsbD (0#6).toNat = true ∧
      delegated.hart.priv ≠ .M) ∧
    ((15#6).toNat ≤ 15 ∧ delegated.cfg.hasS = true ∧ delegated.hart.csr.medeleg.getLsbD (15#6).toNat = true ∧
      delegated.hart.priv ≠ .M) ∧
    ((14#6).toNat ≤ 15 ∧ ¬ (delegated.cfg.hasS = true ∧ delegated.hart.csr.medeleg.getLsbD (14#6).toNat = true ∧
      delegated.hart.priv ≠ .M)) ∧
    15 < (16#6).toNat := by decide

theorem witness_UndelegatableCodesTrapToMachine :
    delegated.hart.fatal = false ∧ (15#6).toNat ≤ 15 ∧ delegated.hart.csr.medeleg &&& ~~~0xB3FF#64 = 0 ∧
    (10#6).toNat ∈ [10, 11, 14] ∧ (11#6).toNat ∈ [10, 11, 14] ∧ (14#6).toNat ∈ [10, 11, 14] := by decide

/-- Commands other than RESET that change the field each clause is about. -/
theorem witness_HartFieldsHaveOnlyTheirWriters :
    (left (.writePc 4) State.reset).pc ≠ State.reset.hart.pc ∧
    (left (.writeNextPc 4) State.reset).nextPC ≠ State.reset.hart.nextPC ∧
    (left (.writeGpr 1 4) State.reset).readX 1 ≠ State.reset.hart.readX 1 ∧
    (left (.writeFpr 1 4) State.reset).readF 1 ≠ State.reset.hart.readF 1 ∧
    (left (.writeVr 1 4) State.reset).readV 1 ≠ State.reset.hart.readV 1 ∧
    (left (.setPriv 0) State.reset).priv ≠ State.reset.hart.priv ∧
    (left (.writeHost 0 4) State.reset).tohost ≠ State.reset.hart.tohost ∧
    (left (.writeHost 1 4) State.reset).fromhost ≠ State.reset.hart.fromhost ∧
    (left (.setPmpcfg 1 0) State.reset).fatal ≠ State.reset.hart.fatal := by decide

theorem witness_CsrStorageHasOnlyItsWriters :
    (∃ t, exec (.writeCsr 0x300 8) State.reset = .next t ∧ t.hart.csr.mstatus ≠ State.reset.hart.csr.mstatus) ∧
    (∃ t, exec (.injectException 2 1) State.reset = .next t ∧ t.hart.csr.mtval ≠ State.reset.hart.csr.mtval) ∧
    (∃ t, exec (.setVconfig 1 0) State.reset = .next t ∧ t.hart.csr.vl ≠ State.reset.hart.csr.vl) :=
  ⟨⟨_, rfl, by decide⟩, ⟨_, rfl, by decide⟩, ⟨_, rfl, by decide⟩⟩

theorem witness_PendingBitsHaveTheirOwnWriters :
    (∃ t, exec (.setMipPlatform 0x888) State.reset = .next t ∧
      t.hart.csr.mip.getLsbD 3 ≠ State.reset.hart.csr.mip.getLsbD 3) ∧
    (∃ t, exec (.writeCsr 0x344 0x222) State.reset = .next t ∧
      t.hart.csr.mip.getLsbD 9 ≠ State.reset.hart.csr.mip.getLsbD 9) :=
  ⟨⟨_, rfl, by decide⟩, ⟨_, rfl, by decide⟩⟩

theorem witness_OtherCommandsDoNotReadThePrivilege :
    ∃ t, exec (.setPmpaddr 0 5) (bootAt .S) = .next t :=
  ⟨_, rfl⟩

/-- One entry of each mode; for NAPOT the address of the spec's own example, with nine trailing ones. -/
theorem witness_PmpRangeByMode :
    ((bootTable .M [(0x07, 1)]).hart.cfgByte 0).extractLsb' 3 2 = 0#2 ∧
    ((bootTable .M [(0x0F, 1)]).hart.cfgByte 0).extractLsb' 3 2 = 1#2 ∧
    ((bootTable .M [(0x17, 1)]).hart.cfgByte 0).extractLsb' 3 2 = 2#2 ∧
    (((bootTable .M [(0x1F, 0x200001FF)]).hart.cfgByte 0).extractLsb' 3 2 = 3#2 ∧
      ((bootTable .M [(0x1F, 0x200001FF)]).hart.addrField 0).toNat % 2 ^ (9 + 1) = 2 ^ 9 - 1) ∧
    pmpRange (bootTable .M [(0x1F, 0x200001FF)]).hart 0 = some (0x80000000, 0x80001000) := by decide

theorem witness_PmpMatchIsByBytes :
    0 < 8 ∧ pmpRange State.reset.hart 0 = none ∧
    pmpRange (bootTable .U [(0x0F, 0x400)]).hart 0 = some (0, 0x1000) := by decide

/-- No match, a partial match and a match by entry 0; and a table with no entries. -/
theorem witness_CheckAccessFirstMatchDecides :
    (bootTable .U [(0x09, 0x400)]).hart.fatal = false ∧ 2 < (3#6).toNat ∧ (2#6).toNat = 2 ∧
    (bootPmp .none).cfg.pmpCount.toNat = 0 ∧
    (0 < State.reset.cfg.pmpCount.toNat ∧ ∀ i, i < State.reset.cfg.pmpCount.toNat →
      addrMatch State.reset.hart i 0 8 = .noMatch) ∧
    (0 < (bootTable .U [(0x09, 0x400)]).cfg.pmpCount.toNat ∧
      (∀ j, j < 0 → addrMatch (bootTable .U [(0x09, 0x400)]).hart j 0xFFC 8 = .noMatch) ∧
      addrMatch (bootTable .U [(0x09, 0x400)]).hart 0 0xFFC 8 = .partialMatch ∧
      addrMatch (bootTable .U [(0x09, 0x400)]).hart 0 0xFF8 8 = .fullMatch) := by decide

theorem witness_PmpLawsOfTheSource :
    ((bootAt .U).hart.fatal = false ∧ 0 < (bootAt .U).cfg.pmpCount.toNat ∧ (2#6).toNat ≤ 2 ∧
      (bootAt .U).hart.priv ≠ .M ∧
      ∀ i, i < (bootAt .U).cfg.pmpCount.toNat → ((bootAt .U).hart.cfgByte i).extractLsb' 3 2 = 0#2) ∧
    (let s := bootTable .U [(0, 0x20000000), (0x09, 0x20000400)]
     s.hart.fatal = false ∧ s.hart.priv ≠ .M ∧ 1 < s.cfg.pmpCount.toNat ∧
      (∀ i, i < s.cfg.pmpCount.toNat → i ≠ 1 → (s.hart.cfgByte i).extractLsb' 3 2 = 0#2) ∧
      (s.hart.cfgByte 1).extractLsb' 3 2 = 1#2 ∧ (s.hart.cfgByte 1).getLsbD 0 = true ∧
      0x80000000 = (s.hart.addrField 0).toNat * 4 ∧ 0x80001000 = (s.hart.addrField 1).toNat * 4) := by decide

theorem witness_NoEntryReachesTwoToTheFiftySeven :
    2 ^ 57 ≤ (0x200000000000000#64).toNat ∧ State.reset.hart.fatal = false ∧ (2#6).toNat ≤ 2 ∧
    State.reset.hart.priv = .M ∧
    (bootTable .U [(0x1F, 0x3FFFFFFFFFFFFF)]).hart.priv ≠ .M ∧
    (bootTable .U [(0x1F, 0x3FFFFFFFFFFFFF)]).hart.fatal = false ∧
    0 < (bootTable .U [(0x1F, 0x3FFFFFFFFFFFFF)]).cfg.pmpCount.toNat := by decide

theorem witness_PmpCfgByteLegalization :
    (∃ t, exec (.setPmpcfg 0 0x07) (bootTable .M [(0x81, 0)]) = .next t) ∧ Instr.setPmpcfg 0 0x07 ≠ .reset ∧
    ((bootTable .M [(0x81, 0)]).hart.cfgByte 0).getLsbD 7 = true ∧
    (0x81#8).getLsbD 7 = true ∧ (0x00#8).getLsbD 7 = false ∧
    ((0x02#8).getLsbD 1 = true ∧ (0x02#8).getLsbD 0 = false) :=
  ⟨⟨_, rfl⟩, by decide, by decide, by decide, by decide, by decide, by decide⟩

/-- Index 15 is the last of TESTCFG and 16 the first out of range; both forms of lock. -/
theorem witness_PmpAddressCommands :
    State.reset.hart.fatal = false ∧ State.reset.cfg.pmpCount.toNat ≤ (16#12).toNat ∧
    ((15#12).toNat < State.reset.cfg.pmpCount.toNat ∧ State.reset.hart.priv = .M ∧
      (State.reset.hart.cfgByte 15).getLsbD 7 = false) ∧
    ((bootTable .M [(0x81, 0)]).hart.cfgByte (0#12).toNat).getLsbD 7 = true ∧
    (let s := bootTable .M [(0, 0), (0x88, 0)]
     (0#12).toNat + 1 < s.cfg.pmpCount.toNat ∧ (s.hart.cfgByte ((0#12).toNat + 1)).getLsbD 7 = true ∧
      (s.hart.cfgByte ((0#12).toNat + 1)).extractLsb' 3 2 = 1#2) := by decide

theorem witness_PmpConfigurationCommands :
    State.reset.hart.fatal = false ∧ (1#12).toNat % 2 = 1 ∧
    State.reset.cfg.pmpCount.toNat ≤ 4 * (4#12).toNat ∧
    ((2#12).toNat % 2 = 0 ∧ 4 * (2#12).toNat < State.reset.cfg.pmpCount.toNat ∧ State.reset.hart.priv = .M) := by decide

/-- Entry 1 is a locked TOR entry, and the pending request writes the address below it. -/
theorem witness_LockedPmpEntriesStayUntilReset :
    (let s := withRequests (bootTable .M [(0, 0), (0x88, 0)]) [⟨0x32, 0, 0, 5, 0, 0⟩]
     (∃ t, step s = .next t) ∧ (⟨0x32, 0, 0, 5, 0, 0⟩ : Request).op ≠ 0x01#8 ∧
      s.requests.head? = some ⟨0x32, 0, 0, 5, 0, 0⟩ ∧ 1 < s.cfg.pmpCount.toNat ∧
      (s.hart.cfgByte 1).getLsbD 7 = true ∧ (s.hart.cfgByte 1).extractLsb' 3 2 = 1#2) :=
  ⟨⟨_, rfl⟩, by decide, rfl, by decide, by decide, by decide⟩

theorem witness_DecodeAnswersTheEngine :
    (bootAt .U).hart.fatal = false ∧ (0x100000000#64).extractLsb' 32 32 ≠ 0#32 := by decide

/-- A trap to M from U, and one from M; every premise of the statement holds of both. -/
theorem witness_TrapThenMretRestores :
    (∀ s ∈ [bootAt .U, State.reset], s.hart.fatal = false ∧ s.cfg.legal = true ∧ (15#6).toNat ≤ 15 ∧
      ¬ (s.cfg.hasS = true ∧ s.hart.csr.medeleg.getLsbD (15#6).toNat = true ∧ s.hart.priv ≠ .M)) ∧
    LevelExists (bootAt .U) ∧ LevelExists State.reset := by
  refine ⟨by decide, ?_, ?_⟩ <;> simp only [LevelExists] <;> decide

theorem witness_TrapThenSretRestores :
    delegated.hart.fatal = false ∧ (8#6).toNat ≤ 15 ∧ delegated.cfg.hasS = true ∧
    delegated.hart.csr.medeleg.getLsbD (8#6).toNat = true ∧ delegated.hart.priv ≠ .M ∧
    delegated.hart.csr.mstatus.getLsbD 22 = false := by decide

theorem witness_StepAfterTrapEntersTheHandler :
    delegated.hart.fatal = false ∧ (15#6).toNat ≤ 15 := by decide

theorem witness_DirtyingSetsOneFieldOfMstatus :
    State.reset.hart.fatal = false ∧
    State.reset.cfg.hasF = true ∧ State.reset.cfg.hasV = true ∧
    (State.construct { testcfg with hasF := false, hasD := false, hasV := false }).cfg.hasV = false := by decide

theorem witness_FpAndVectorInstructionsNeedAndDirtyTheirUnit :
    State.reset.hart.fatal = false ∧ UnitOff State.reset ⟨true, false⟩ [] ∧ UnitOff State.reset ⟨false, true⟩ [] ∧
    (let s := bootCsr fun k => { k with mstatus := 0x2200 }
     ¬ UnitOff s ⟨true, true⟩ [.write (.fpr 31 1)] ∧ ¬ UnitOff s ⟨true, true⟩ [.write (.vr 31 1)]) ∧
    (EngineWrite.fpr 31 1).dirtiesFs = true ∧ (EngineWrite.vr 31 1).dirtiesVs = true := by
  refine ⟨by decide, .inl ⟨.inl rfl, by decide⟩, .inr ⟨.inl rfl, by decide⟩, ⟨?_, ?_⟩, by decide, by decide⟩ <;>
  · rintro (⟨_, h⟩ | ⟨_, h⟩) <;> exact absurd h (by decide)

/-- Each branch of the checks: misaligned, permitted, denied, and the level of MPP. -/
theorem witness_LoadStoreChecks :
    (DataLevel State.reset .M ∧ (0x7FF#64).toNat % AccessSize.b8.bytes ≠ 0 ∧ (0x7F8#64).toNat % AccessSize.b8.bytes = 0) ∧
    pmpCheck State.reset.cfg State.reset.hart 0x7F8 8 .read .M = none ∧
    (DataLevel (bootAt .U) .U ∧ pmpCheck (bootAt .U).cfg (bootAt .U).hart 0x7F8 8 .write .U ≠ none) ∧
    DataLevel (bootCsr fun k => { k with mstatus := 0x20000 }) .U := by
  unfold DataLevel
  decide

theorem witness_EngineStepRunsOneInstruction :
    (bootAt .U).hart.fatal = false ∧
    pmpCheck (bootAt .U).cfg (bootAt .U).hart (bootAt .U).hart.pc.toNat 8 .exec (bootAt .U).hart.priv ≠ none ∧
    pmpCheck State.reset.cfg State.reset.hart State.reset.hart.pc.toNat 8 .exec State.reset.hart.priv = none := by decide

/-- A state that is no reset state: a locked TOR entry, `mstatus` all set, and a request that writes the entry. -/
def midRun : State :=
  let s := bootTable .S [(0, 0), (0x89, 0x400)]
  { s with
    hart := { s.hart with csr := { s.hart.csr with mstatus := 0x7E7FAA, mtvec := 0x101, vstart := 127 } }
    requests := [⟨0x33, 0, 0, 0x1F02, 0, 0⟩] }

theorem midRun_entry (i : Nat) :
    midRun.hart.cfgByte i = (if i = 1 then 0x89 else 0) ∧ midRun.hart.addrField i = (if i = 1 then 0x400 else 0) := by
  by_cases h : i < 64
  · have all : ∀ k : Fin 64, midRun.hart.cfgByte k.val = (if k.val = 1 then 0x89 else 0) ∧
        midRun.hart.addrField k.val = (if k.val = 1 then 0x400 else 0) := by decide
    exact all ⟨i, h⟩
  · have h1 : i ≠ 1 := by omega
    have h2 : midRun.hart.pmpcfg[i]? = none := Vector.getElem?_eq_none (by omega)
    have h3 : midRun.hart.pmpaddr[i]? = none := Vector.getElem?_eq_none (by omega)
    simp [Hart.cfgByte, Hart.addrField, h1, h2, h3]

theorem witness_InvariantKeptByEveryStep : Inv midRun ∧ ∃ t, step midRun = .next t := by
  refine ⟨⟨?_, ?_, ?_, ?_, ?_, ?_, ?_, ?_, ?_, ?_, ?_, ?_, ?_, ?_, ?_⟩, ⟨_, rfl⟩⟩
  case refine_13 =>
    intro i
    have zero : midRun.hart.readV i = 0 := by revert i; decide
    rw [zero]
    exact Nat.two_pow_pos _
  case refine_14 =>
    intro i
    rw [(midRun_entry i).1]
    split <;> decide
  case refine_15 =>
    intro i hi
    have h16 : 16 ≤ i := hi
    rw [(midRun_entry i).1, (midRun_entry i).2, if_neg (by omega), if_neg (by omega)]
    exact ⟨rfl, rfl⟩
  all_goals decide

theorem witness_InvariantHoldsAtReset : testcfg.legal = true ∧ (bootPmp .none).cfg.legal = true := by decide

theorem witness_OnlyABadPmpIndexIsUnsafe :
    (let s := withRequests State.reset [⟨0x31, 16, 0, 0, 0, 0⟩]
     Safe s ∧ ∃ t, step s = .next t ∧ ¬ Safe t) :=
  ⟨rfl, _, rfl, by simp only [Safe]; decide⟩

end Sys2Proof.Tests
end

/-!
Every command answers, whole or not at all (spec 00_scope.md R5, R12; 30_encoding.md R130, R132, R134): the outcome of
`exec`, of a rejected request and of `step` on a request is one of three completions, said once as `WholeOrNothing`.
The two claims of scope are read off it.
-/

namespace Sys2Proof.Machine

/-- The three ways a command performed in state `s` can complete (R134): OK with whatever hart and values its rule gives;
a failure with the hart of `s` and no value; FATAL with the hart of `s` in the fatal state and no value. -/
def WholeOrNothing (s : State) (o : Host.Outcome State Fault Refusal) : Prop :=
  (∃ h rd rv, Completes o s h .ok rd rv) ∨
  (∃ st, st ≠ .ok ∧ st ≠ .fatal ∧ Completes o s s.hart st 0 0) ∨
  Completes o s { s.hart with fatal := true } .fatal 0 0

/-! ### The endings -/

theorem completes_answerOper (s : State) (op : Operation) :
    Completes (.next (s.answerOper op)) s s.hart .ok 0 0 :=
  ⟨_, _, rfl, rfl, rfl, rfl, rfl, rfl, rfl, rfl⟩

theorem wholeOrNothing_reply_ok (s : State) (rd : Word) : WholeOrNothing s (reply s .ok rd) :=
  .inl ⟨_, _, _, completes_reply s .ok rd⟩

theorem wholeOrNothing_commit_ok (s : State) (h : Hart) (rd : Word) : WholeOrNothing s (commit s h .ok rd) :=
  .inl ⟨_, _, _, completes_commit s h .ok rd⟩

theorem wholeOrNothing_reply_failure (s : State) {st : Status} (hok : st ≠ .ok) (hfatal : st ≠ .fatal) :
    WholeOrNothing s (reply s st 0) :=
  .inr (.inl ⟨st, hok, hfatal, completes_reply s st 0⟩)

theorem wholeOrNothing_enterFatal (s : State) : WholeOrNothing s (enterFatal s) :=
  .inr (.inr (completes_commit s _ .fatal 0))

/-- In the fatal state, setting `fatal` changes nothing. -/
theorem setFatal_of_fatal {h : Hart} (hf : h.fatal = true) : { h with fatal := true } = h := by
  rw [← hf]

theorem wholeOrNothing_reply_fatal {s : State} (hf : s.hart.fatal = true) : WholeOrNothing s (reply s .fatal 0) := by
  refine .inr (.inr ?_)
  rw [setFatal_of_fatal hf]
  exact completes_reply s .fatal 0

/-! ### The order of checks, the commands, and the step -/

theorem wholeOrNothing_guarded {α : Type} {s : State} (o : Option α)
    {body : α → Host.Outcome State Fault Refusal} (hbody : ∀ a, WholeOrNothing s (body a)) :
    WholeOrNothing s (guarded s o body) := by
  rcases guarded_cases s o body with ⟨hf, e⟩ | ⟨_, _, e⟩ | ⟨_, a, _, e⟩
  · rw [e]
    exact wholeOrNothing_reply_fatal hf
  · rw [e]
    exact wholeOrNothing_reply_failure s (by decide) (by decide)
  · rw [e]
    exact hbody a

theorem wholeOrNothing_checked {s : State} {body : Host.Outcome State Fault Refusal} (hbody : WholeOrNothing s body) :
    WholeOrNothing s (checked s body) :=
  wholeOrNothing_guarded _ fun _ => hbody

/-- A command that has an index to judge by R333 enters the fatal state or follows its own rule. -/
theorem wholeOrNothing_fatalIf {s : State} (bad : Prop) [Decidable bad] {body : Host.Outcome State Fault Refusal}
    (hbody : WholeOrNothing s body) : WholeOrNothing s (if bad then enterFatal s else body) := by
  split
  · exact wholeOrNothing_enterFatal s
  · exact hbody

theorem wholeOrNothing_readCsr (idx : BitVec 12) (s : State) : WholeOrNothing s (execReadCsr idx s) := by
  refine wholeOrNothing_checked ?_
  cases visibleCsr s idx with
  | none => exact wholeOrNothing_reply_failure s (by decide) (by decide)
  | some c => exact wholeOrNothing_reply_ok s _

theorem wholeOrNothing_writeCsr (idx : BitVec 12) (v : Word) (s : State) :
    WholeOrNothing s (execWriteCsr idx v s) := by
  refine wholeOrNothing_checked ?_
  cases visibleCsr s idx with
  | none => exact wholeOrNothing_reply_failure s (by decide) (by decide)
  | some c =>
    cases csrReadOnlySpace idx with
    | true => exact wholeOrNothing_reply_failure s (by decide) (by decide)
    | false => exact wholeOrNothing_commit_ok s _ _

/-- Every command completes in one of the three ways. -/
theorem exec_wholeOrNothing (i : Instr) (s : State) : WholeOrNothing s (exec i s) := by
  cases i with
  | reset => exact wholeOrNothing_commit_ok s _ _
  | readGpr => exact wholeOrNothing_guarded _ fun _ => wholeOrNothing_reply_ok s _
  | writeGpr => exact wholeOrNothing_guarded _ fun _ => wholeOrNothing_commit_ok s _ _
  | readFpr => exact wholeOrNothing_guarded _ fun _ => wholeOrNothing_reply_ok s _
  | writeFpr => exact wholeOrNothing_guarded _ fun _ => wholeOrNothing_commit_ok s _ _
  | readVr => exact wholeOrNothing_guarded _ fun _ => .inl ⟨_, _, _, completes_answerWith s _ _ _⟩
  | writeVr => exact wholeOrNothing_guarded _ fun _ => wholeOrNothing_commit_ok s _ _
  | readPc => exact wholeOrNothing_checked (wholeOrNothing_reply_ok s _)
  | writePc => exact wholeOrNothing_checked (wholeOrNothing_commit_ok s _ _)
  | readNextPc => exact wholeOrNothing_checked (wholeOrNothing_reply_ok s _)
  | writeNextPc => exact wholeOrNothing_checked (wholeOrNothing_commit_ok s _ _)
  | readHost => exact wholeOrNothing_guarded _ fun _ => wholeOrNothing_reply_ok s _
  | writeHost => exact wholeOrNothing_guarded _ fun _ => wholeOrNothing_commit_ok s _ _
  | readCsr idx => exact wholeOrNothing_readCsr idx s
  | writeCsr idx v => exact wholeOrNothing_writeCsr idx v s
  | isCsrDefined => exact wholeOrNothing_checked (wholeOrNothing_reply_ok s _)
  | setVconfig => exact wholeOrNothing_checked (wholeOrNothing_commit_ok s _ _)
  | setMipPlatform => exact wholeOrNothing_checked (wholeOrNothing_commit_ok s _ _)
  | getPriv => exact wholeOrNothing_checked (wholeOrNothing_reply_ok s _)
  | setPriv => exact wholeOrNothing_guarded _ fun _ => wholeOrNothing_commit_ok s _ _
  | injectException => exact wholeOrNothing_guarded _ fun _ => wholeOrNothing_commit_ok s _ _
  | checkAccess => exact wholeOrNothing_guarded _ fun _ => wholeOrNothing_reply_ok s _
  | getPmpaddr => exact wholeOrNothing_checked (wholeOrNothing_fatalIf _ (wholeOrNothing_reply_ok s _))
  | setPmpaddr => exact wholeOrNothing_checked (wholeOrNothing_fatalIf _ (wholeOrNothing_commit_ok s _ _))
  | setPmpcfg => exact wholeOrNothing_checked (wholeOrNothing_fatalIf _ (wholeOrNothing_commit_ok s _ _))
  | decode => exact wholeOrNothing_guarded _ fun _ => .inl ⟨_, _, _, completes_answerOper s _⟩

theorem answerReject_wholeOrNothing (e : DecodeReject) (s : State) : WholeOrNothing s (answerReject e s) := by
  unfold answerReject
  split
  · exact wholeOrNothing_reply_fatal ‹_›
  · exact wholeOrNothing_reply_failure s (by decide) (by decide)

theorem step_nil {s : State} (hs : s.requests = []) : step s = .next s := by
  rw [step, takeRequest_nil hs]
  rfl

theorem step_cons_ok {s : State} {r : Request} {rest : List Request} {i : Instr} (hs : s.requests = r :: rest)
    (hd : Sys2Proof.decode r = .ok i) : step s = exec i { s with requests := rest } := by
  simp only [step, takeRequest_cons hs, hd]

theorem step_cons_error {s : State} {r : Request} {rest : List Request} {e : DecodeReject}
    (hs : s.requests = r :: rest) (hd : Sys2Proof.decode r = .error e) :
    step s = answerReject e { s with requests := rest } := by
  simp only [step, takeRequest_cons hs, hd]

/-- A step with a request pending completes in one of the three ways, from the state with that request taken. -/
theorem step_cons_wholeOrNothing {s : State} {r : Request} {rest : List Request} (hs : s.requests = r :: rest) :
    WholeOrNothing { s with requests := rest } (step s) := by
  cases hd : Sys2Proof.decode r with
  | ok i =>
    rw [step_cons_ok hs hd]
    exact exec_wholeOrNothing i _
  | error e =>
    rw [step_cons_error hs hd]
    exact answerReject_wholeOrNothing e _

/-! ### What a completion says -/

theorem WholeOrNothing.exists_completes {s : State} {o : Host.Outcome State Fault Refusal} (ho : WholeOrNothing s o) :
    ∃ h st rd rv, Completes o s h st rd rv := by
  rcases ho with ⟨h, rd, rv, hc⟩ | ⟨st, _, _, hc⟩ | hc
  · exact ⟨h, .ok, rd, rv, hc⟩
  · exact ⟨s.hart, st, 0, 0, hc⟩
  · exact ⟨_, .fatal, 0, 0, hc⟩

/-- The completion of a known next state and response names that state's hart and that response's fields. -/
theorem Completes.eq_of_next {s t : State} {h : Hart} {st : Status} {rd : Word} {rv : VReg} {r : Response}
    (hc : Completes (.next t) s h st rd rv) (hr : t.response = some r) :
    t.hart = h ∧ r.status = st ∧ r.rdata = rd ∧ r.rvdata = rv := by
  obtain ⟨t', r', ht, _, hhart, _, hr', hst, hrd, hrv⟩ := hc
  cases ht
  obtain rfl : r = r' := Option.some.inj (hr.symm.trans hr')
  exact ⟨hhart, hst, hrd, hrv⟩

/-! ### The claims -/

/-- Settles O8: with no request the step is idle; with one, the command or its rejection completes, and a completion
keeps the configuration and the requests behind the one taken. -/
theorem everyStepAnswersAndKeepsTheConfiguration : Obligations.EveryStepAnswersAndKeepsTheConfiguration := by
  unfold Obligations.EveryStepAnswersAndKeepsTheConfiguration
  intro s
  cases hs : s.requests with
  | nil => exact ⟨s, step_nil hs, rfl, hs, fun hne => absurd rfl hne⟩
  | cons r rest =>
    obtain ⟨_, _, _, _, t, a, hstep, hcfg, _, hreq, hresp, _⟩ := (step_cons_wholeOrNothing hs).exists_completes
    exact ⟨t, hstep, hcfg, hreq, fun _ => Option.isSome_of_eq_some hresp⟩

/-- Settles O9: of the three completions only OK may change anything but `fatal` or return a value. -/
theorem noPartialFailure : Obligations.NoPartialFailure := by
  unfold Obligations.NoPartialFailure
  intro i s t r ht hr hne
  have hexec := exec_wholeOrNothing i s
  rw [ht] at hexec
  rcases hexec with ⟨h, rd, rv, hc⟩ | ⟨st, _, hfatal, hc⟩ | hc
  · obtain ⟨_, hst, _, _⟩ := hc.eq_of_next hr
    exact absurd hst hne
  · obtain ⟨hhart, rfl, hrd, hrv⟩ := hc.eq_of_next hr
    exact ⟨fun hst => absurd hst hfatal, fun _ => hhart, hrd, hrv⟩
  · obtain ⟨hhart, hst, hrd, hrv⟩ := hc.eq_of_next hr
    exact ⟨fun _ => hhart, fun hst' => absurd hst hst', hrd, hrv⟩

end Sys2Proof.Machine

/-!
The invariant of the block (spec 10_state.md R28, R31-R40, R46, R50, R52; 43_pmp.md R297-R299): a hart is legal under a
configuration when its CSR storage, vector registers and PMP table are, and every effect of a command keeps it so.
-/

namespace Sys2Proof.Machine

/-! ### Values within a mask -/

/-- A value keeps within a mask exactly when each of its 1 bits is a bit of the mask. -/
theorem and_not_eq_zero_iff {v m : Word} :
    v &&& ~~~m = 0 ↔ ∀ j, v.getLsbD j = true → m.getLsbD j = true := by
  constructor
  · intro h j hv
    have hj : j < 64 := BitVec.lt_of_getLsbD hv
    have hbit : (v &&& ~~~m).getLsbD j = false := by simp [h]
    simpa [hv, hj] using hbit
  · intro h
    apply BitVec.eq_of_getLsbD_eq
    intro j hj
    cases hv : v.getLsbD j
    · simp [hv]
    · simp [hv, h j hv]

theorem and_within (v m : Word) : v &&& m &&& ~~~m = 0 :=
  and_not_eq_zero_iff.mpr fun j hj => by simp_all

theorem maskedWrite_within {old mask m : Word} (new : Word) (hold : old &&& ~~~m = 0) (hmask : mask &&& ~~~m = 0) :
    maskedWrite old new mask &&& ~~~m = 0 := by
  refine and_not_eq_zero_iff.mpr fun j hj => ?_
  rw [getLsbD_maskedWrite] at hj
  split at hj
  · exact and_not_eq_zero_iff.mp hmask j ‹_›
  · exact and_not_eq_zero_iff.mp hold j hj

theorem setField_within {v m : Word} {lo w : Nat} {x : BitVec w} (hw : lo + w ≤ 64) (hv : v &&& ~~~m = 0)
    (hfield : ∀ j, lo ≤ j → j < lo + w → m.getLsbD j = true) : setField v lo x &&& ~~~m = 0 := by
  refine and_not_eq_zero_iff.mpr fun j hj => ?_
  rw [getLsbD_setField v lo x hw] at hj
  split at hj
  · exact hfield j (by omega) (by omega)
  · exact and_not_eq_zero_iff.mp hv j hj

/-! ### The storage of `mstatus` -/

theorem mppOf_setField (s : Word) (x : BitVec 2) : mppOf (setField s 11 x) = x := by
  apply BitVec.eq_of_getLsbD_eq
  intro i hi
  rw [mppOf, BitVec.getLsbD_extractLsb', getLsbD_setField s 11 x (by decide), if_pos (by omega)]
  simp [hi]

/-- MPP is bits 11 and 12 alone. -/
theorem mppOf_congr {a b : Word} (h11 : a.getLsbD 11 = b.getLsbD 11) (h12 : a.getLsbD 12 = b.getLsbD 12) :
    mppOf a = mppOf b := by
  apply BitVec.eq_of_getLsbD_eq
  intro i hi
  have : i = 0 ∨ i = 1 := by omega
  rcases this with rfl | rfl
  · simpa [mppOf] using h11
  · simpa [mppOf] using h12

theorem mppOf_setField_outside {s : Word} {lo w : Nat} (x : BitVec w) (hw : lo + w ≤ 64)
    (hout : lo + w ≤ 11 ∨ 13 ≤ lo) : mppOf (setField s lo x) = mppOf s := by
  apply mppOf_congr <;> rw [getLsbD_setField s lo x hw, if_neg (by omega)]

/-- The M-level fields MIE, MPIE and MPP are writable under every configuration (R32). -/
theorem mstatusRw_machine (cfg : Config) {j : Nat} (hj : j ∈ [3, 7, 11, 12]) : (mstatusRw cfg).getLsbD j = true := by
  have hlt : ∀ k ∈ [3, 7, 11, 12], k < 64 := by decide
  simp only [getLsbD_mstatusRw cfg j (hlt j hj), rwBit, List.contains_iff_mem.mpr hj, Bool.true_or]

/-- The S-level fields SIE, SPIE and SPP are writable where S exists (R32). -/
theorem mstatusRw_supervisor {cfg : Config} (hs : cfg.hasS = true) {j : Nat} (hj : j ∈ [1, 5, 8]) :
    (mstatusRw cfg).getLsbD j = true := by
  have hlt : ∀ k ∈ [1, 5, 8], k < 64 ∧ [1, 5, 8, 18, 19, 20, 22].contains k = true := by decide
  obtain ⟨h64, hmem⟩ := hlt j hj
  simp only [getLsbD_mstatusRw cfg j h64, rwBit, hs, hmem, Bool.and_self, Bool.true_or, Bool.or_true]

theorem mstatusWrite_within {cfg : Config} {s : Word} (v : Word) (hs : s &&& ~~~mstatusRw cfg = 0) :
    mstatusWrite cfg s v &&& ~~~mstatusRw cfg = 0 := by
  refine setField_within (by decide) (maskedWrite_within v hs (by simp)) ?_
  exact fun j _ _ => mstatusRw_machine cfg (by simp; omega)

/-- The level an MPP write leaves is legal or the old one (R207), and 2 is never legal. -/
theorem mppOf_mstatusWrite {cfg : Config} {s : Word} (v : Word) (hs : mppOf s ≠ 2#2) :
    mppOf (mstatusWrite cfg s v) ≠ 2#2 := by
  rw [mstatusWrite, mppOf_setField]
  split
  next hl =>
    intro h2
    simp [mppLegal, h2] at hl
  next => exact hs

theorem sstatusWrite_within {cfg : Config} {s : Word} (v : Word) (hs : s &&& ~~~mstatusRw cfg = 0) :
    sstatusWrite cfg s v &&& ~~~mstatusRw cfg = 0 :=
  maskedWrite_within v hs (and_within _ _)

/-- A write of `sstatus` does not reach MPP (R34). -/
theorem mppOf_sstatusWrite (cfg : Config) (s v : Word) : mppOf (sstatusWrite cfg s v) = mppOf s := by
  apply mppOf_congr <;> rw [sstatusWrite, getLsbD_maskedWrite, if_neg (by simp [sstatusWmask])]

theorem mstatusTrapM_within {cfg : Config} {s : Word} (cur : Priv) (hs : s &&& ~~~mstatusRw cfg = 0) :
    mstatusTrapM s cur &&& ~~~mstatusRw cfg = 0 := by
  refine setField_within (by decide) (setField_within (by decide) (setField_within (by decide) hs ?_) ?_) ?_ <;>
    exact fun j _ _ => mstatusRw_machine cfg (by simp; omega)

theorem mppOf_mstatusTrapM (s : Word) (cur : Priv) : mppOf (mstatusTrapM s cur) = cur.enc :=
  mppOf_setField _ _

theorem mstatusTrapS_within {cfg : Config} {s : Word} (cur : Priv) (hS : cfg.hasS = true)
    (hs : s &&& ~~~mstatusRw cfg = 0) : mstatusTrapS s cur &&& ~~~mstatusRw cfg = 0 := by
  refine setField_within (by decide) (setField_within (by decide) (setField_within (by decide) hs ?_) ?_) ?_ <;>
    exact fun j _ _ => mstatusRw_supervisor hS (by simp; omega)

/-- A trap to S does not reach MPP (R263). -/
theorem mppOf_mstatusTrapS (s : Word) (cur : Priv) : mppOf (mstatusTrapS s cur) = mppOf s := by
  rw [mstatusTrapS, mppOf_setField_outside _ (by decide) (by decide),
    mppOf_setField_outside _ (by decide) (by decide), mppOf_setField_outside _ (by decide) (by decide)]

theorem enc_ne_two (p : Priv) : p.enc ≠ 2#2 := by
  cases p <;> decide

/-! ### The other legalized writes -/

/-- A trap-vector write keeps MODE below 2: the reserved modes keep the old one (R214). -/
theorem tvecWrite_mode {old : Word} (v : Word) (hold : old.getLsbD 1 = false) : (tvecWrite old v).getLsbD 1 = false := by
  have hmode : ∀ x : BitVec 2, x.toNat ≤ 1 → x.getLsbD 1 = false := by decide
  unfold tvecWrite
  split
  next hle =>
    have hnew := hmode _ hle
    simpa using hnew
  next => simpa using hold

theorem vstartWrite_lt {cfg : Config} (v : Word) (hpos : 0 < cfg.vlen) : (vstartWrite cfg v).toNat < cfg.vlen := by
  rw [vstartWrite, BitVec.toNat_ofNat]
  exact lt_of_le_of_lt (Nat.mod_le _ _) (Nat.mod_lt _ hpos)

/-- The bits a write of `sie` may change are writable in `mie` where S exists. -/
theorem sieMask_within {cfg : Config} (mideleg : Word) (hS : cfg.hasS = true) :
    mideleg &&& sInterruptMask &&& ~~~mieWmask cfg = 0 := by
  simp [mieWmask, onlyIf, hS, BitVec.and_assoc, mInterruptMask, sInterruptMask]

/-- The bit a write of `sip` may change is writable in `mip` where S exists. -/
theorem sipMask_within {cfg : Config} (mideleg : Word) (hS : cfg.hasS = true) :
    mideleg &&& 0x2#64 &&& ~~~(mInterruptMask ||| mipWmask cfg) = 0 := by
  simp [mipWmask, onlyIf, hS, BitVec.and_assoc, mInterruptMask, sInterruptMask]

theorem mipWmask_within (cfg : Config) : mipWmask cfg &&& ~~~(mInterruptMask ||| mipWmask cfg) = 0 :=
  and_not_eq_zero_iff.mpr fun j hj => by simp [hj]

theorem mInterruptMask_within (cfg : Config) : mInterruptMask &&& ~~~(mInterruptMask ||| mipWmask cfg) = 0 :=
  and_not_eq_zero_iff.mpr fun j hj => by simp [hj]

/-! ### The CSR file -/

/-- The CSR storage of a block of configuration `cfg` holds legal values: the part of `Inv` about it. -/
structure CsrsLegal (cfg : Config) (k : Csrs) : Prop where
  mstatusBits : k.mstatus &&& ~~~mstatusRw cfg = 0
  mppNotReserved : mppOf k.mstatus ≠ 2#2
  medelegBits : k.medeleg &&& ~~~medelegWmask = 0
  midelegBits : k.mideleg &&& ~~~midelegWmask = 0
  mieBits : k.mie &&& ~~~mieWmask cfg = 0
  mipBits : k.mip &&& ~~~(mInterruptMask ||| mipWmask cfg) = 0
  mtvecMode : k.mtvec.getLsbD 1 = false
  stvecMode : k.stvec.getLsbD 1 = false
  mcounterenBits : k.mcounteren &&& ~~~0x7#64 = 0
  scounterenBits : k.scounteren &&& ~~~0x7#64 = 0
  vstartBelow : k.vstart.toNat < cfg.vlen

section csrs
variable {cfg : Config} {k : Csrs}

/-- A legal `vstart` is below VLEN, so VLEN is not 0. -/
theorem CsrsLegal.vlen_pos (hk : CsrsLegal cfg k) : 0 < cfg.vlen :=
  Nat.zero_lt_of_lt hk.vstartBelow

/-- A write of a CSR that exists is legalized (R206-R219). -/
theorem CsrsLegal.csrStorageWrite (hk : CsrsLegal cfg k) (v : Word) {c : Csr} (hc : c.existsIn cfg = true) :
    CsrsLegal cfg (csrStorageWrite cfg k v c) := by
  cases c with
  | mstatus =>
    exact { hk with
      mstatusBits := mstatusWrite_within v hk.mstatusBits
      mppNotReserved := mppOf_mstatusWrite v hk.mppNotReserved }
  | sstatus =>
    exact { hk with
      mstatusBits := sstatusWrite_within v hk.mstatusBits
      mppNotReserved := (mppOf_sstatusWrite cfg k.mstatus v).trans_ne hk.mppNotReserved }
  | medeleg => exact { hk with medelegBits := and_within _ _ }
  | mideleg => exact { hk with midelegBits := and_within _ _ }
  | mie => exact { hk with mieBits := and_within _ _ }
  | sie => exact { hk with mieBits := maskedWrite_within v hk.mieBits (sieMask_within _ hc) }
  | mip => exact { hk with mipBits := maskedWrite_within v hk.mipBits (mipWmask_within cfg) }
  | sip => exact { hk with mipBits := maskedWrite_within v hk.mipBits (sipMask_within _ hc) }
  | mtvec => exact { hk with mtvecMode := tvecWrite_mode v hk.mtvecMode }
  | stvec => exact { hk with stvecMode := tvecWrite_mode v hk.stvecMode }
  | mcounteren => exact { hk with mcounterenBits := and_within _ _ }
  | scounteren => exact { hk with scounterenBits := and_within _ _ }
  | vstart => exact { hk with vstartBelow := vstartWrite_lt v hk.vlen_pos }
  | _ => exact { hk with }

/-- Trap entry saves the level of before, which is never 2, and writes S-level fields only where S exists. -/
theorem CsrsLegal.trapCsrs (hk : CsrsLegal cfg k) {t : Priv} (ht : t ≠ .M → cfg.hasS = true) (cur : Priv) (c : ExcCode)
    (pc tval : Word) : CsrsLegal cfg (trapCsrs k t cur c pc tval) := by
  unfold Machine.trapCsrs
  split
  next =>
    exact { hk with
      mstatusBits := mstatusTrapM_within cur hk.mstatusBits
      mppNotReserved := (mppOf_mstatusTrapM _ _).trans_ne (enc_ne_two cur) }
  next hne =>
    exact { hk with
      mstatusBits := mstatusTrapS_within cur (ht hne) hk.mstatusBits
      mppNotReserved := (mppOf_mstatusTrapS _ _).trans_ne hk.mppNotReserved }

theorem CsrsLegal.setMipPlatform (hk : CsrsLegal cfg k) (v : Word) :
    CsrsLegal cfg { k with mip := maskedWrite k.mip v mInterruptMask } :=
  { hk with mipBits := maskedWrite_within v hk.mipBits (mInterruptMask_within cfg) }

end csrs

theorem csrsLegal_zero {cfg : Config} (hpos : 0 < cfg.vlen) : CsrsLegal cfg Csrs.zero where
  mstatusBits := BitVec.zero_and
  mppNotReserved := by decide
  medelegBits := BitVec.zero_and
  midelegBits := BitVec.zero_and
  mieBits := BitVec.zero_and
  mipBits := BitVec.zero_and
  mtvecMode := rfl
  stvecMode := rfl
  mcounterenBits := BitVec.zero_and
  scounterenBits := BitVec.zero_and
  vstartBelow := hpos

/-! ### The PMP table -/

/-- A configuration byte is legal (R52): bits 6:5 clear, and no W without R. -/
def CfgByteLegal (b : BitVec 8) : Prop :=
  b &&& 0x60#8 = 0 ∧ (cfgW b = true → cfgR b = true)

/-- What an unlocked byte becomes depends on the value written alone. -/
theorem pmpWriteCfg_unlocked {old : BitVec 8} (h : cfgL old = false) (b : BitVec 8) :
    pmpWriteCfg old b = pmpWriteCfg 0 b := by
  have h0 : cfgL 0 = false := by decide
  simp only [pmpWriteCfg, h, h0, Bool.false_eq_true, if_false]

/-- R297: a locked byte stays, any other is legalized. -/
theorem pmpWriteCfg_legal {old : BitVec 8} (hold : CfgByteLegal old) (b : BitVec 8) :
    CfgByteLegal (pmpWriteCfg old b) := by
  have hfresh : ∀ b : BitVec 8, CfgByteLegal (pmpWriteCfg 0 b) := by
    unfold CfgByteLegal
    decide
  cases hl : cfgL old
  · rw [pmpWriteCfg_unlocked hl]
    exact hfresh b
  · rwa [pmpWriteCfg, if_pos hl]

/-- The eight entries of an implemented configuration register are all implemented (R30, R299). -/
theorem pmpcfg_entries_le {c : PmpCount} {n : Nat} (heven : n % 2 = 0) (hn : 4 * n < c.toNat) : 4 * n + 8 ≤ c.toNat := by
  cases c <;> simp only [PmpCount.toNat] at hn ⊢ <;> omega

@[simp] theorem writePmpcfg_csr (h : Hart) (n : Nat) (v : Word) : (h.writePmpcfg n v).csr = h.csr := by
  rw [writePmpcfg_eq]

@[simp] theorem writePmpcfg_v (h : Hart) (n : Nat) (v : Word) : (h.writePmpcfg n v).v = h.v := by
  rw [writePmpcfg_eq]

@[simp] theorem writePmpcfg_pmpaddr (h : Hart) (n : Nat) (v : Word) : (h.writePmpcfg n v).pmpaddr = h.pmpaddr := by
  rw [writePmpcfg_eq]

@[simp] theorem readV_writePmpcfg (h : Hart) (n : Nat) (v : Word) (i : RegIndex) :
    (h.writePmpcfg n v).readV i = h.readV i := by
  simp only [Hart.readV, writePmpcfg_v]

@[simp] theorem addrField_writePmpcfg (h : Hart) (n : Nat) (v : Word) (i : Nat) :
    (h.writePmpcfg n v).addrField i = h.addrField i := by
  simp only [Hart.addrField, writePmpcfg_pmpaddr]

@[simp] theorem writePmpaddr_csr (cfg : Config) (h : Hart) (i : Nat) (v : Word) :
    (h.writePmpaddr cfg i v).csr = h.csr := by
  rw [writePmpaddr_eq]

@[simp] theorem readV_writePmpaddr (cfg : Config) (h : Hart) (i : Nat) (v : Word) (j : RegIndex) :
    (h.writePmpaddr cfg i v).readV j = h.readV j := by
  rw [writePmpaddr_eq]
  rfl

@[simp] theorem cfgByte_writePmpaddr (cfg : Config) (h : Hart) (i : Nat) (v : Word) (j : Nat) :
    (h.writePmpaddr cfg i v).cfgByte j = h.cfgByte j := by
  rw [writePmpaddr_eq]
  rfl

@[simp] theorem cfgByte_constructed (i : Nat) : Hart.constructed.cfgByte i = 0 := by
  by_cases hi : i < 64
  · simp [Hart.cfgByte, Hart.constructed, hi]
  · exact cfgByte_of_le (by omega)

@[simp] theorem addrField_constructed (i : Nat) : Hart.constructed.addrField i = 0 := by
  by_cases hi : i < 64
  · simp [Hart.addrField, Hart.constructed, hi]
  · exact addrField_of_le (by omega)

@[simp] theorem readV_constructed (i : RegIndex) : Hart.constructed.readV i = 0 := by
  simp [Hart.readV, Hart.constructed]

/-! ### The hart -/

/-- The hart of a block of configuration `cfg` holds legal values: all of `Inv` but the configuration's own part. -/
structure HartLegal (cfg : Config) (h : Hart) : Prop where
  csrs : CsrsLegal cfg h.csr
  vregsBelow : ∀ i : RegIndex, h.readV i < 2 ^ cfg.vlen
  cfgBytes : ∀ i : Nat, CfgByteLegal (h.cfgByte i)
  noEntryPastCount : ∀ i : Nat, cfg.pmpCount.toNat ≤ i → h.cfgByte i = 0 ∧ h.addrField i = 0

theorem inv_iff {s : State} : Inv s ↔ s.cfg.legal = true ∧ HartLegal s.cfg s.hart := by
  constructor
  · intro hs
    exact ⟨hs.cfgLegal, { hs with csrs := { hs with } }⟩
  · rintro ⟨hcfg, hh⟩
    exact { hh, hh.csrs with cfgLegal := hcfg }

theorem hartLegal_constructed {cfg : Config} (hpos : 0 < cfg.vlen) : HartLegal cfg Hart.constructed where
  csrs := csrsLegal_zero hpos
  vregsBelow i := by simp
  cfgBytes i := by
    rw [cfgByte_constructed]
    exact ⟨by decide, by decide⟩
  noEntryPastCount i _ := by simp

section hart
variable {cfg : Config} {h : Hart}

theorem HartLegal.writeX (hh : HartLegal cfg h) (i : RegIndex) (v : Word) : HartLegal cfg (h.writeX i v) := by
  rw [writeX_eq]
  exact { hh with }

theorem HartLegal.writeV (hh : HartLegal cfg h) (i : RegIndex) (v : VReg) : HartLegal cfg (h.writeV cfg i v) where
  csrs := hh.csrs
  cfgBytes := hh.cfgBytes
  noEntryPastCount := hh.noEntryPastCount
  vregsBelow j := by
    rw [readV_writeV]
    split
    · exact Nat.mod_lt _ (Nat.two_pow_pos _)
    · exact hh.vregsBelow j

theorem HartLegal.writeHost (hh : HartLegal cfg h) (r : HostReg) (v : Word) : HartLegal cfg (h.writeHost r v) := by
  cases r <;> exact { hh with }

theorem HartLegal.writePmpcfg (hh : HartLegal cfg h) {n : Nat} (v : Word) (heven : n % 2 = 0)
    (hn : 4 * n < cfg.pmpCount.toNat) : HartLegal cfg (h.writePmpcfg n v) where
  csrs := by simpa using hh.csrs
  vregsBelow i := by simpa using hh.vregsBelow i
  cfgBytes i := by
    rw [cfgByte_writePmpcfg]
    split
    · exact pmpWriteCfg_legal (hh.cfgBytes i) _
    · exact hh.cfgBytes i
  noEntryPastCount i hi := by
    have hle := pmpcfg_entries_le heven hn
    rw [cfgByte_writePmpcfg, if_neg (by omega), addrField_writePmpcfg]
    exact hh.noEntryPastCount i hi

theorem HartLegal.writePmpaddr (hh : HartLegal cfg h) {i : Nat} (v : Word) (hi : i < cfg.pmpCount.toNat) :
    HartLegal cfg (h.writePmpaddr cfg i v) where
  csrs := by simpa using hh.csrs
  vregsBelow j := by simpa using hh.vregsBelow j
  cfgBytes j := by simpa using hh.cfgBytes j
  noEntryPastCount j hj := by
    rw [cfgByte_writePmpaddr, addrField_writePmpaddr, if_neg (by omega)]
    exact hh.noEntryPastCount j hj

theorem HartLegal.csrWrite (hh : HartLegal cfg h) {c : Csr} (v : Word) (hc : c.existsIn cfg = true) :
    HartLegal cfg (csrWrite cfg h c v) := by
  cases c with
  | pmpcfg n =>
    obtain ⟨heven, hn⟩ : n.val % 2 = 0 ∧ 4 * n.val < cfg.pmpCount.toNat := by simpa [Csr.existsIn] using hc
    exact hh.writePmpcfg v heven hn
  | pmpaddr i => exact hh.writePmpaddr v (of_decide_eq_true hc)
  | _ => exact { hh with csrs := hh.csrs.csrStorageWrite v hc }

theorem HartLegal.takeException (hh : HartLegal cfg h) (c : ExcCode) (tval : Word) :
    HartLegal cfg (takeException cfg h c tval) := by
  have ht : delegatee cfg h.csr.medeleg c h.priv ≠ .M → cfg.hasS = true := by
    rw [delegatee_eq]
    split
    next hd => exact fun _ => hd.1
    next => exact fun hne => absurd rfl hne
  exact { hh with csrs := hh.csrs.trapCsrs ht h.priv c h.pc tval }

end hart

/-- A CSR visible at some level exists (R203). -/
theorem existsIn_of_csrDefined {cfg : Config} {p : Priv} {id : BitVec 12} {c : Csr} (hc : csrOfNumber id = some c)
    (hd : csrDefined cfg p id = true) : c.existsIn cfg = true := by
  simp only [csrDefined, csrExists, hc, Bool.and_eq_true] at hd
  exact hd.1

/-- Every effect of a command keeps the hart legal. -/
theorem HartLegal.effect {s : State} {h : Hart} (hs : HartLegal s.cfg s.hart) {i : Instr} (he : Effect s h i) :
    HartLegal s.cfg h := by
  cases i
  case reset =>
    rw [he]
    exact hartLegal_constructed hs.csrs.vlen_pos
  case writeGpr =>
    obtain ⟨a, _, rfl⟩ := he
    exact hs.writeX a _
  case writeFpr =>
    obtain ⟨a, _, rfl⟩ := he
    exact { hs with }
  case writeVr =>
    obtain ⟨a, _, rfl⟩ := he
    exact hs.writeV a _
  case writePc | writeNextPc | setVconfig =>
    rw [he]
    exact { hs with csrs := { hs.csrs with } }
  case writeHost =>
    obtain ⟨a, _, rfl⟩ := he
    exact hs.writeHost a _
  case writeCsr =>
    obtain ⟨c, hc, hd, _, rfl⟩ := he
    exact hs.csrWrite _ (existsIn_of_csrDefined hc hd)
  case setMipPlatform =>
    rw [he]
    exact { hs with csrs := hs.csrs.setMipPlatform _ }
  case setPriv =>
    obtain ⟨p, _, rfl⟩ := he
    exact { hs with }
  case injectException =>
    obtain ⟨c, _, rfl⟩ := he
    exact hs.takeException c _
  case getPmpaddr =>
    obtain ⟨_, rfl⟩ := he
    exact { hs with }
  case setPmpaddr =>
    rcases he with ⟨_, rfl⟩ | ⟨hlt, rfl⟩
    · exact { hs with }
    · exact hs.writePmpaddr _ hlt
  case setPmpcfg =>
    rcases he with ⟨_, rfl⟩ | ⟨heven, hlt, rfl⟩
    · exact { hs with }
    · exact hs.writePmpcfg _ heven hlt
  case readGpr | readFpr | readVr | readPc | readNextPc | readHost | readCsr | isCsrDefined | getPriv | checkAccess |
      decode =>
    exact he.elim

/-! ### The step -/

/-- An effect does not read the pending requests. -/
theorem effect_requests {s : State} {rs : List Request} {h : Hart} {i : Instr} :
    Effect { s with requests := rs } h i ↔ Effect s h i := by
  cases i <;> rfl

/-- EVERYTHING A STEP CAN DO to the hart: nothing, or the effect of the command the oldest request decodes to. -/
theorem step_effect {s t : State} (h : step s = .next t) :
    t.hart = s.hart ∨
      ∃ r rest i, s.requests = r :: rest ∧ Sys2Proof.decode r = .ok i ∧ Effect s t.hart i := by
  rcases step_cases h with ⟨_, rfl⟩ | ⟨r, rest, i, hr, hd, he⟩ | ⟨_, _, _, _, _, he⟩
  · exact .inl rfl
  · rcases exec_effect he with hsame | heff
    · exact .inl hsame
    · exact .inr ⟨r, rest, i, hr, hd, effect_requests.mp heff⟩
  · have hsame := answerReject_next he
    exact .inl hsame

theorem step_cfg {s t : State} (h : step s = .next t) : t.cfg = s.cfg := by
  obtain ⟨t', ht, hcfg, _⟩ := everyStepAnswersAndKeepsTheConfiguration s
  cases h.symm.trans ht
  exact hcfg

/-- Settles O54: the configuration stays, and the hart stays or takes a command's effect, which keeps it legal. -/
theorem invariantKeptByEveryStep : Obligations.InvariantKeptByEveryStep := by
  unfold Obligations.InvariantKeptByEveryStep
  intro s t hs hstep
  obtain ⟨hcfg, hh⟩ := inv_iff.mp hs
  rw [inv_iff, step_cfg hstep]
  refine ⟨hcfg, ?_⟩
  rcases step_effect hstep with hsame | ⟨_, _, _, _, _, heff⟩
  · rwa [hsame]
  · exact hh.effect heff

end Sys2Proof.Machine

/-!
Which commands write what (spec 10_state.md R22-R31, R38, R47, R55-R58; 60_exceptions.md R384): each command's effect on
the CSR storage said once, and the writers of every field of the state record read off it.
-/

namespace Sys2Proof.Machine

/-! ### Operands by their value -/

theorem hostSelect_eq_tohost {idx : BitVec 12} (h : hostSelect idx = some .tohost) : idx = 0 := by
  unfold hostSelect at h
  split at h
  next h0 => exact BitVec.eq_of_toNat_eq h0
  all_goals cases h

theorem hostSelect_eq_fromhost {idx : BitVec 12} (h : hostSelect idx = some .fromhost) : idx = 1 := by
  unfold hostSelect at h
  split at h
  next => cases h
  next h1 => exact BitVec.eq_of_toNat_eq h1
  next => cases h

/-! ### The fields of the state record -/

/-- Settles O37: the hart stays or takes the effect of one command, and each effect writes the fields named alone. -/
theorem hartFieldsHaveOnlyTheirWriters : Obligations.HartFieldsHaveOnlyTheirWriters := by
  unfold Obligations.HartFieldsHaveOnlyTheirWriters
  intro i s t h hreset
  rcases exec_effect h with hsame | heff
  · simp [hsame]
  cases i
  case reset => exact absurd rfl hreset
  case writeGpr | writeFpr | writeVr | setPriv | injectException =>
    obtain ⟨a, _, hh⟩ := heff
    simp [hh, Hart.writeF, Hart.writeV, takeException]
  case writePc | writeNextPc | setVconfig | setMipPlatform =>
    have hh : t.hart = _ := heff
    simp [hh]
  case writeHost idx v =>
    obtain ⟨a, ha, hh⟩ := heff
    cases a with
    | tohost =>
      obtain rfl := hostSelect_eq_tohost ha
      simp [hh, Hart.writeHost]
    | fromhost =>
      obtain rfl := hostSelect_eq_fromhost ha
      simp [hh, Hart.writeHost]
  case writeCsr =>
    obtain ⟨c, _, _, _, hh⟩ := heff
    rw [csrWrite_eq] at hh
    simp [hh]
  case getPmpaddr =>
    obtain ⟨_, hh⟩ := heff
    simp [hh]
  case setPmpaddr =>
    rcases heff with ⟨_, hh⟩ | ⟨_, hh⟩
    · simp [hh]
    · rw [writePmpaddr_eq] at hh
      simp [hh]
  case setPmpcfg =>
    rcases heff with ⟨_, hh⟩ | ⟨_, _, hh⟩
    · simp [hh]
    · rw [writePmpcfg_eq] at hh
      simp [hh]
  case readGpr | readFpr | readVr | readPc | readNextPc | readHost | readCsr | isCsrDefined | getPriv | checkAccess |
      decode =>
    exact heff.elim

/-! ### The CSR storage -/

/-- EVERYTHING A COMMAND BUT RESET CAN DO to the CSR storage: a CSR write, a trap, or one of the two platform commands
changes it; every other command leaves it as it is. -/
theorem exec_csr_cases {i : Instr} {s t : State} (h : exec i s = .next t) (hreset : i ≠ .reset) :
    t.hart.csr = s.hart.csr ∨
    (∃ c v, i = .writeCsr c.number v ∧ t.hart.csr = csrStorageWrite s.cfg s.hart.csr v c) ∨
    (∃ kind c v target, i = .injectException kind v ∧
      t.hart.csr = trapCsrs s.hart.csr target s.hart.priv c s.hart.pc v) ∨
    (∃ v, i = .setMipPlatform v ∧
      t.hart.csr = { s.hart.csr with mip := maskedWrite s.hart.csr.mip v mInterruptMask }) ∨
    (∃ a b, i = .setVconfig a b ∧ t.hart.csr = { s.hart.csr with vl := a, vtype := b }) := by
  rcases exec_effect h with hsame | heff
  · exact .inl (by rw [hsame])
  cases i
  case reset => exact absurd rfl hreset
  case writeCsr id v =>
    obtain ⟨c, hc, _, _, hh⟩ := heff
    obtain rfl := number_of_csrOfNumber hc
    exact .inr (.inl ⟨c, v, rfl, by rw [hh, csrWrite_csr]⟩)
  case injectException kind v =>
    obtain ⟨c, _, hh⟩ := heff
    exact .inr (.inr (.inl ⟨kind, c, v, _, rfl, by rw [hh]; rfl⟩))
  case setMipPlatform v => exact .inr (.inr (.inr (.inl ⟨v, rfl, congrArg Hart.csr heff⟩)))
  case setVconfig a b => exact .inr (.inr (.inr (.inr ⟨a, b, rfl, congrArg Hart.csr heff⟩)))
  case writeGpr | writeFpr | writeVr | setPriv =>
    obtain ⟨a, _, hh⟩ := heff
    exact .inl (by simp [hh, Hart.writeF, Hart.writeV])
  case writePc | writeNextPc =>
    have hh : t.hart = _ := heff
    exact .inl (by rw [hh])
  case writeHost =>
    obtain ⟨a, _, hh⟩ := heff
    exact .inl (by cases a <;> rw [hh] <;> rfl)
  case getPmpaddr =>
    obtain ⟨_, hh⟩ := heff
    exact .inl (by rw [hh])
  case setPmpaddr =>
    rcases heff with ⟨_, hh⟩ | ⟨_, hh⟩
    · exact .inl (by rw [hh])
    · exact .inl (by rw [hh, writePmpaddr_csr])
  case setPmpcfg =>
    rcases heff with ⟨_, hh⟩ | ⟨_, _, hh⟩
    · exact .inl (by rw [hh])
    · exact .inl (by rw [hh, writePmpcfg_csr])
  case readGpr | readFpr | readVr | readPc | readNextPc | readHost | readCsr | isCsrDefined | getPriv | checkAccess |
      decode =>
    exact heff.elim

/-- Trap entry changes the trap registers of the two levels and `mstatus` only (R263). -/
theorem trapCsrs_frame (k : Csrs) (t cur : Priv) (c : ExcCode) (pc tval : Word) :
    ∃ m me mc mt se sc st, trapCsrs k t cur c pc tval =
      { k with mstatus := m, mepc := me, mcause := mc, mtval := mt, sepc := se, scause := sc, stval := st } := by
  unfold trapCsrs
  split <;> exact ⟨_, _, _, _, _, _, _, rfl⟩

/-- Settles O38: the storage changes by a CSR write, a trap, or a platform command, and each writes the fields named
alone. -/
theorem csrStorageHasOnlyItsWriters : Obligations.CsrStorageHasOnlyItsWriters := by
  unfold Obligations.CsrStorageHasOnlyItsWriters
  intro i s t h hreset
  rcases exec_csr_cases h hreset with
    hk | ⟨c, v, rfl, hk⟩ | ⟨kind, c, v, target, rfl, hk⟩ | ⟨v, rfl, hk⟩ | ⟨a, b, rfl, hk⟩
  · simp [hk]
  · have hwrote : ∀ ids : List (BitVec 12),
        (∃ id w, Instr.writeCsr c.number v = .writeCsr id w ∧ id ∈ ids) ↔ c.number ∈ ids := by simp
    simp only [hk, hwrote, reduceCtorEq, exists_false, or_false]
    cases c <;> simp [csrStorageWrite, Csr.number]
  · obtain ⟨_, _, _, _, _, _, _, htrap⟩ := trapCsrs_frame s.hart.csr target s.hart.priv c s.hart.pc v
    simp [hk, htrap]
  · simp [hk]
  · simp [hk]

/-! ### The pending interrupts -/

theorem sInterruptMask_bit {j : Nat} (h : sInterruptMask.getLsbD j = true) : j ∈ [1, 5, 9] := by
  have hall : ∀ k < 64, sInterruptMask.getLsbD k = true → k ∈ [1, 5, 9] := by decide
  exact hall j (BitVec.lt_of_getLsbD h) h

theorem mInterruptMask_bit {j : Nat} (h : mInterruptMask.getLsbD j = true) : j ∈ [3, 7, 11] := by
  have hall : ∀ k < 64, mInterruptMask.getLsbD k = true → k ∈ [3, 7, 11] := by decide
  exact hall j (BitVec.lt_of_getLsbD h) h

theorem ssipMask_bit {j : Nat} (h : (0x2#64).getLsbD j = true) : j = 1 := by
  have hall : ∀ k < 64, (0x2#64).getLsbD k = true → k = 1 := by decide
  exact hall j (BitVec.lt_of_getLsbD h) h

/-- A masked write that changes a bit has the bit in its mask. -/
theorem mask_of_maskedWrite_ne {old new mask : Word} {j : Nat}
    (h : (maskedWrite old new mask).getLsbD j ≠ old.getLsbD j) : mask.getLsbD j = true := by
  rw [getLsbD_maskedWrite] at h
  by_contra hn
  exact h (if_neg hn)

/-- A CSR write changes a bit of `mip` only through `mip` (the S-level bits) or through `sip` (SSIP), R212, R213. -/
theorem csrStorageWrite_mip_bit {cfg : Config} {k : Csrs} {v : Word} {c : Csr} {j : Nat}
    (h : (csrStorageWrite cfg k v c).mip.getLsbD j ≠ k.mip.getLsbD j) :
    (c = .mip ∧ j ∈ [1, 5, 9]) ∨ (c = .sip ∧ j = 1) := by
  cases c
  case mip =>
    have hmask := mask_of_maskedWrite_ne h
    rw [mipWmask, getLsbD_onlyIf, Bool.and_eq_true] at hmask
    exact .inl ⟨rfl, sInterruptMask_bit hmask.2⟩
  case sip =>
    have hmask := mask_of_maskedWrite_ne h
    rw [BitVec.getLsbD_and, Bool.and_eq_true] at hmask
    exact .inr ⟨rfl, ssipMask_bit hmask.2⟩
  all_goals exact absurd rfl h

theorem trapCsrs_mip (k : Csrs) (t cur : Priv) (c : ExcCode) (pc tval : Word) :
    (trapCsrs k t cur c pc tval).mip = k.mip := by
  unfold trapCsrs
  split <;> rfl

/-- A command but RESET that changes a bit of `mip` is SET_MIP_PLATFORM on an M-level bit, or the CSR write of an
S-level one. -/
theorem exec_mip_bit {i : Instr} {s t : State} (h : exec i s = .next t) (hreset : i ≠ .reset) {j : Nat}
    (hj : t.hart.csr.mip.getLsbD j ≠ s.hart.csr.mip.getLsbD j) :
    (j ∈ [3, 7, 11] ∧ ∃ v, i = .setMipPlatform v) ∨
    (j ∈ [1, 5, 9] ∧ ((∃ v, i = .writeCsr 0x344 v) ∨ (j = 1 ∧ ∃ v, i = .writeCsr 0x144 v))) := by
  rcases exec_csr_cases h hreset with
    hk | ⟨c, v, rfl, hk⟩ | ⟨kind, c, v, target, rfl, hk⟩ | ⟨v, rfl, hk⟩ | ⟨a, b, rfl, hk⟩ <;> rw [hk] at hj
  · exact absurd rfl hj
  · rcases csrStorageWrite_mip_bit hj with ⟨rfl, hmem⟩ | ⟨rfl, rfl⟩
    · exact .inr ⟨hmem, .inl ⟨v, rfl⟩⟩
    · exact .inr ⟨by simp, .inr ⟨rfl, v, rfl⟩⟩
  · exact absurd (by rw [trapCsrs_mip]) hj
  · exact .inl ⟨mInterruptMask_bit (mask_of_maskedWrite_ne hj), v, rfl⟩
  · exact absurd rfl hj

/-- Settles O39: the M-level bits and the S-level bits are disjoint, and each kind has its own writers. -/
theorem pendingBitsHaveTheirOwnWriters : Obligations.PendingBitsHaveTheirOwnWriters := by
  unfold Obligations.PendingBitsHaveTheirOwnWriters
  intro i s t h hreset
  have hdisjoint : ∀ j ∈ [3, 7, 11], j ∉ [1, 5, 9] := by decide
  refine ⟨fun j hm hj => ?_, fun j hm hj => ?_⟩
  · rcases exec_mip_bit h hreset hj with ⟨_, hset⟩ | ⟨hs, _⟩
    · exact hset
    · exact absurd hs (hdisjoint j hm)
  · rcases exec_mip_bit h hreset hj with ⟨hmem, _⟩ | hwrite
    · exact absurd hmem hm
    · exact hwrite

end Sys2Proof.Machine

/-!
What the status registers, the map of the CSR numbers and the reset values read (spec 10_state.md R30, R32, R33, R59;
70_reset_and_hazards.md R430, R432, R433), and the port's width at the vector file (R28).
-/

namespace Sys2Proof.Machine

/-! ### The address map (R30) -/

/-- A number exists when it is the number of a CSR that does. -/
theorem csrExists_iff {cfg : Config} {id : BitVec 12} :
    csrExists cfg id = true ↔ ∃ c : Csr, c.number = id ∧ c.existsIn cfg = true := by
  unfold csrExists
  constructor
  · intro h
    split at h
    next => cases h
    next c hc => exact ⟨c, number_of_csrOfNumber hc, h⟩
  · rintro ⟨c, rfl, hc⟩
    rw [csrOfNumber_number]
    exact hc

/-- The CSRs that exist with HAS_F. -/
def fpCsrs : List Csr := [.fflags, .frm, .fcsr]

/-- The CSRs that exist with HAS_V. -/
def vectorCsrs : List Csr := [.vstart, .vxsat, .vxrm, .vcsr, .vl, .vtype, .vlenb]

/-- The CSRs that exist with HAS_S. -/
def supervisorCsrs : List Csr :=
  [.sstatus, .sie, .stvec, .scounteren, .sscratch, .sepc, .scause, .stval, .sip, .medeleg, .mideleg]

/-- The CSRs that exist under every configuration. -/
def unconditionalCsrs : List Csr :=
  [.mstatus, .misa, .mie, .mtvec, .mscratch, .mepc, .mcause, .mtval, .mip, .mcycle, .minstret, .cycle, .instret,
   .mvendorid, .marchid, .mimpid, .mhartid]

/-- "Exists when", by groups of CSRs. -/
theorem existsIn_iff {cfg : Config} {c : Csr} : c.existsIn cfg = true ↔
    (c ∈ fpCsrs ∧ cfg.hasF = true) ∨ (c ∈ vectorCsrs ∧ cfg.hasV = true) ∨ (c ∈ supervisorCsrs ∧ cfg.hasS = true) ∨
    (c = .mcounteren ∧ cfg.hasU = true) ∨ c ∈ unconditionalCsrs ∨
    (∃ n, c = .pmpcfg n ∧ n.val % 2 = 0 ∧ 4 * n.val < cfg.pmpCount.toNat) ∨
    (∃ i, c = .pmpaddr i ∧ i.val < cfg.pmpCount.toNat) := by
  cases c <;> simp [Csr.existsIn, fpCsrs, vectorCsrs, supervisorCsrs, unconditionalCsrs]

/-- The numbers of a list of CSRs are those its CSRs have. -/
theorem mem_numbers_iff (cs : List Csr) {numbers : List Nat} (h : cs.map (·.number.toNat) = numbers)
    {id : BitVec 12} : id.toNat ∈ numbers ↔ ∃ c ∈ cs, c.number = id := by
  simp only [← h, List.mem_map, BitVec.toNat_inj]

theorem toNat_number_pmpcfg (n : Fin 16) : (Csr.pmpcfg n).number.toNat = 0x3A0 + n.val := by
  simp only [Csr.number, BitVec.toNat_ofNat]
  omega

theorem toNat_number_pmpaddr (i : Fin 64) : (Csr.pmpaddr i).number.toNat = 0x3B0 + i.val := by
  simp only [Csr.number, BitVec.toNat_ofNat]
  omega

/-- Settles O22: the numbers of the map are those of the CSRs of each group. -/
theorem csrExistenceTable : Obligations.CsrExistenceTable := by
  unfold Obligations.CsrExistenceTable
  intro cfg id
  simp only [csrExists_iff, existsIn_iff]
  constructor
  · rintro ⟨c, rfl, ⟨hc, he⟩ | ⟨hc, he⟩ | ⟨hc, he⟩ | ⟨rfl, he⟩ | hc | ⟨n, rfl, heven, hn⟩ | ⟨i, rfl, hi⟩⟩
    · exact .inl ⟨(mem_numbers_iff fpCsrs rfl).mpr ⟨c, hc, rfl⟩, he⟩
    · exact .inr (.inl ⟨(mem_numbers_iff vectorCsrs rfl).mpr ⟨c, hc, rfl⟩, he⟩)
    · exact .inr (.inr (.inl ⟨(mem_numbers_iff supervisorCsrs rfl).mpr ⟨c, hc, rfl⟩, he⟩))
    · exact .inr (.inr (.inr (.inl ⟨rfl, he⟩)))
    · exact .inr (.inr (.inr (.inr (.inl ((mem_numbers_iff unconditionalCsrs rfl).mpr ⟨c, hc, rfl⟩)))))
    · exact .inr (.inr (.inr (.inr (.inr (.inl ⟨n, n.isLt, toNat_number_pmpcfg n, heven, hn⟩)))))
    · exact .inr (.inr (.inr (.inr (.inr (.inr ⟨i, i.isLt, toNat_number_pmpaddr i, hi⟩)))))
  · rintro (⟨hid, he⟩ | ⟨hid, he⟩ | ⟨hid, he⟩ | ⟨hid, he⟩ | hid | ⟨n, hlt, hid, heven, hn⟩ | ⟨i, hlt, hid, hi⟩)
    · obtain ⟨c, hc, rfl⟩ := (mem_numbers_iff fpCsrs rfl).mp hid
      exact ⟨c, rfl, .inl ⟨hc, he⟩⟩
    · obtain ⟨c, hc, rfl⟩ := (mem_numbers_iff vectorCsrs rfl).mp hid
      exact ⟨c, rfl, .inr (.inl ⟨hc, he⟩)⟩
    · obtain ⟨c, hc, rfl⟩ := (mem_numbers_iff supervisorCsrs rfl).mp hid
      exact ⟨c, rfl, .inr (.inr (.inl ⟨hc, he⟩))⟩
    · exact ⟨.mcounteren, BitVec.eq_of_toNat_eq hid.symm, .inr (.inr (.inr (.inl ⟨rfl, he⟩)))⟩
    · obtain ⟨c, hc, rfl⟩ := (mem_numbers_iff unconditionalCsrs rfl).mp hid
      exact ⟨c, rfl, .inr (.inr (.inr (.inr (.inl hc))))⟩
    · exact ⟨.pmpcfg ⟨n, hlt⟩, BitVec.eq_of_toNat_eq ((toNat_number_pmpcfg _).trans hid.symm),
        .inr (.inr (.inr (.inr (.inr (.inl ⟨_, rfl, heven, hn⟩)))))⟩
    · exact ⟨.pmpaddr ⟨i, hlt⟩, BitVec.eq_of_toNat_eq ((toNat_number_pmpaddr _).trans hid.symm),
        .inr (.inr (.inr (.inr (.inr (.inr ⟨_, rfl, hi⟩)))))⟩

/-! ### The value of `mstatus` (R33) -/

/-- The stored bits a read of `mstatus` starts from. -/
theorem getLsbD_and_mstatusRw (cfg : Config) (s : Word) {j : Nat} (hj : j < 64) :
    (s &&& mstatusRw cfg).getLsbD j = (rwBit cfg j && s.getLsbD j) := by
  rw [BitVec.getLsbD_and, getLsbD_mstatusRw cfg j hj, Bool.and_comm]

/-- The value of R33 before SD is put in place: the stored bits, MPP at 3 where U does not exist, UXL and SXL. -/
def mstatusBelowSd (cfg : Config) (s : Word) : Word :=
  setField (setField (if cfg.hasU then s &&& mstatusRw cfg else setField (s &&& mstatusRw cfg) 11 0b11#2)
    32 (if cfg.hasU then 0b10#2 else 0b00#2)) 34 (if cfg.hasS then 0b10#2 else 0b00#2)

theorem mstatusRead_eq (cfg : Config) (s : Word) :
    mstatusRead cfg s = setField (mstatusBelowSd cfg s) 63 (BitVec.ofBool (sdOf (mstatusBelowSd cfg s))) := rfl

/-- MPP reads 3 where U does not exist. -/
theorem getLsbD_storedMpp (cfg : Config) (s : Word) {j : Nat} (hj : j < 64) :
    (if cfg.hasU then s &&& mstatusRw cfg else setField (s &&& mstatusRw cfg) 11 0b11#2).getLsbD j =
      if j = 11 ∨ j = 12 then !cfg.hasU || s.getLsbD j else rwBit cfg j && s.getLsbD j := by
  by_cases hmpp : j = 11 ∨ j = 12
  · have hrw : rwBit cfg j = true := by rcases hmpp with rfl | rfl <;> rfl
    have hones : (0b11#2).getLsbD (j - 11) = true := by rcases hmpp with rfl | rfl <;> rfl
    rw [if_pos hmpp]
    cases cfg.hasU
    · rw [if_neg Bool.false_ne_true, getLsbD_setField _ _ _ (by decide), if_pos (by omega), hones]
      rfl
    · rw [if_pos rfl, getLsbD_and_mstatusRw cfg s hj, hrw]
      rfl
  · rw [if_neg hmpp]
    cases cfg.hasU
    · rw [if_neg Bool.false_ne_true, getLsbD_setField _ _ _ (by decide), if_neg (by omega),
        getLsbD_and_mstatusRw cfg s hj]
    · rw [if_pos rfl, getLsbD_and_mstatusRw cfg s hj]

theorem getLsbD_mstatusBelowSd (cfg : Config) (s : Word) {j : Nat} (hj : j < 64) :
    (mstatusBelowSd cfg s).getLsbD j =
      if j = 11 ∨ j = 12 then !cfg.hasU || s.getLsbD j
      else if j = 33 then cfg.hasU
      else if j = 35 then cfg.hasS
      else rwBit cfg j && s.getLsbD j := by
  rw [mstatusBelowSd, getLsbD_setField _ _ _ (by decide), getLsbD_setField _ _ _ (by decide),
    getLsbD_storedMpp cfg s hj]
  by_cases hsxl : 34 ≤ j ∧ j < 34 + 2
  · have : j = 34 ∨ j = 35 := by omega
    rcases this with rfl | rfl <;> cases hS : cfg.hasS <;> simp [rwBit]
  · by_cases huxl : 32 ≤ j ∧ j < 32 + 2
    · have : j = 32 ∨ j = 33 := by omega
      rcases this with rfl | rfl <;> cases hU : cfg.hasU <;> simp [rwBit]
    · have h33 : j ≠ 33 := by omega
      have h35 : j ≠ 35 := by omega
      simp only [hsxl, huxl, h33, h35, if_false]

/-- SD as it is read (R32): FS = 3 where F exists, or VS = 3 where V does. -/
theorem sdOf_mstatusBelowSd (cfg : Config) (s : Word) :
    sdOf (mstatusBelowSd cfg s) =
      ((cfg.hasF && s.getLsbD 13 && s.getLsbD 14) || (cfg.hasV && s.getLsbD 9 && s.getLsbD 10)) := by
  rw [sdOf_eq]
  iterate 4 rw [getLsbD_mstatusBelowSd cfg s (by decide)]
  cases hF : cfg.hasF <;> cases hV : cfg.hasV <;> simp [rwBit, hF, hV]

/-- Settles O26: SD is bit 63, and the bits below it are R32's table. -/
theorem mstatusReadValue : Obligations.MstatusReadValue := by
  unfold Obligations.MstatusReadValue
  intro cfg s j hj
  rw [mstatusRead_eq, getLsbD_setField _ _ _ (by decide), sdOf_mstatusBelowSd, getLsbD_mstatusBelowSd cfg s hj]
  by_cases hsd : j = 63
  · subst hsd
    simp
  · have hout : ¬ (63 ≤ j ∧ j < 63 + 1) := by omega
    simp only [hout, hsd, if_false]

/-! ### After RESET (R59, R430, R432, R433) -/

/-- With nothing stored, `mstatus` reads its fixed fields alone. -/
theorem mstatusRead_zero (cfg : Config) :
    mstatusRead cfg 0 =
      (if cfg.hasU then 0#64 else 0x1800#64) ||| (if cfg.hasU then 0x200000000#64 else 0#64) |||
        (if cfg.hasS then 0x800000000#64 else 0#64) := by
  have hstored : (0 : Word) &&& mstatusRw cfg = 0 := BitVec.zero_and
  simp only [mstatusRead, hstored]
  cases cfg.hasU <;> cases cfg.hasS <;> decide

theorem readPmpcfg_constructed (n : Nat) : Hart.constructed.readPmpcfg n = 0 := by
  simp only [Hart.readPmpcfg, cfgByte_constructed]
  decide

theorem readPmpaddr_constructed (i : Nat) : Hart.constructed.readPmpaddr i = 0 := by
  simp only [Hart.readPmpaddr, addrField_constructed]
  decide

/-- `misa` reads MXL = 2 above the letters (R41). -/
theorem misaValue_eq (cfg : Config) : misaValue cfg = (2#64 <<< 62) ||| cfg.misaExt.setWidth 64 := by
  apply BitVec.eq_of_getLsbD_eq
  intro j hj
  rw [misaValue]
  simp only [BitVec.getLsbD_append, BitVec.getLsbD_or, BitVec.getLsbD_shiftLeft, BitVec.getLsbD_setWidth]
  by_cases hletter : j < 26
  · have h62 : j < 62 := by omega
    simp [hletter, h62, hj]
  · have hext : cfg.misaExt.getLsbD j = false := BitVec.getLsbD_of_ge _ _ (by omega)
    by_cases h62 : j < 62
    · have h36 : j - 26 < 36 := by omega
      simp [hletter, h36, h62, hext]
    · have : j = 62 ∨ j = 63 := by omega
      rcases this with rfl | rfl <;> simp

/-- Settles O2: RESET leaves the hart of a newly built block, whose storage is all 0, so each CSR reads what its view
makes of 0. -/
theorem readsAfterReset : Obligations.ReadsAfterReset := by
  unfold Obligations.ReadsAfterReset
  intro s
  refine ⟨_, rfl, rfl, rfl, mstatusRead_zero s.cfg, ?_, ?_, fun n => readPmpcfg_constructed n,
    fun i => readPmpaddr_constructed i, misaValue_eq s.cfg, rfl⟩
  · show mstatusRead s.cfg 0 &&& sstatusMask = _
    rw [mstatusRead_zero]
    cases s.cfg.hasU <;> cases s.cfg.hasS <;> decide
  · simp [csrView, Hart.constructed, Csrs.zero, fflagsOf, frmOf, vcsrView]

/-! ### The vector port (R28) -/

/-- Settles O18: the command commits the hart with the register written, which then reads the remainder. -/
theorem writeVrTakesTheLowVlenBits : Obligations.WriteVrTakesTheLowVlenBits := by
  unfold Obligations.WriteVrTakesTheLowVlenBits
  intro s idx v i hf hi
  have hexec : exec (.writeVr idx v) s = commit s (s.hart.writeV s.cfg i v) .ok 0 := by
    rw [exec, execWriteVr, regIndex_eq_some.mpr hi, guarded_some hf]
  refine ⟨s.hart.writeV s.cfg i v, hexec ▸ completes_commit s _ .ok 0, ?_, ?_⟩
  · rw [readV_writeV, if_pos rfl]
  · rw [readV_writeV, if_pos rfl]
    exact Nat.mod_lt _ (Nat.two_pow_pos _)

end Sys2Proof.Machine

/-!
No PMP entry reaches `2^57` (spec 20_memory.md R101; 43_pmp.md R291-R294): a 54-bit address field times 4 ends at or
below it in every mode, so at or above it the default of the scan decides.
-/

namespace Sys2Proof.Machine

/-! ### The end of a range (R291) -/

/-- A value without the bits of a mask, plus the mask, stays below a power of two both are below: the two share no bit,
so the sum is their union. -/
theorem toNat_andNot_add_lt {x m : Word} {n : Nat} (hn : n < 64) (hx : x.toNat < 2 ^ n) (hm : m.toNat < 2 ^ n) :
    (x &&& ~~~m).toNat + m.toNat < 2 ^ n := by
  have hdisjoint : x &&& ~~~m &&& m = 0#64 := by
    rw [BitVec.and_assoc, BitVec.and_comm (~~~m), BitVec.and_not_self]
    exact BitVec.and_zero
  have hrest : (x &&& ~~~m).toNat < 2 ^ n := by
    rw [BitVec.toNat_and]
    exact Nat.lt_of_le_of_lt Nat.and_le_left hx
  have hfits : (x &&& ~~~m).toNat + m.toNat < 2 ^ 64 := by
    have : 2 ^ (n + 1) ≤ 2 ^ 64 := Nat.pow_le_pow_right (by decide) hn
    omega
  have hunion : (x &&& ~~~m).toNat + m.toNat = (x &&& ~~~m).toNat ||| m.toNat := by
    rw [← BitVec.toNat_or, ← BitVec.add_eq_or_of_and_eq_zero _ _ hdisjoint, BitVec.toNat_add_of_lt hfits]
  rw [hunion]
  exact Nat.or_lt_two_pow hrest hm

/-- The mask of a NAPOT address field reaches at most one bit past the field. -/
theorem toNat_napotMask_lt (f : BitVec 54) : (f.setWidth 64 ^^^ (f.setWidth 64 + 1)).toNat < 2 ^ 55 := by
  have hf := f.isLt
  rw [BitVec.toNat_xor]
  refine Nat.xor_lt_two_pow ?_ ?_
  · rw [BitVec.toNat_setWidth]
    omega
  · have hone : (1 : Word).toNat = 1 := rfl
    rw [BitVec.toNat_add, BitVec.toNat_setWidth, hone]
    omega

/-- The range of an entry ends at or below `2^57`. -/
theorem pmpRange_end_le {h : Hart} {i lo hi : Nat} (hr : pmpRange h i = some (lo, hi)) : hi ≤ 2 ^ 57 := by
  have hfield : ((h.addrField i).setWidth 64 : Word).toNat < 2 ^ 54 := by
    have := (h.addrField i).isLt
    rw [BitVec.toNat_setWidth]
    omega
  unfold pmpRange at hr
  cases hmode : pmpModeOf (h.cfgByte i) with
  | off => simp [hmode] at hr
  | tor =>
    simp only [hmode, Option.some.injEq, Prod.mk.injEq] at hr
    omega
  | na4 =>
    simp only [hmode, Option.some.injEq, Prod.mk.injEq] at hr
    omega
  | napot =>
    simp only [hmode, Option.some.injEq, Prod.mk.injEq] at hr
    have hend := toNat_andNot_add_lt (by decide) (Nat.lt_trans hfield (by decide))
      (toNat_napotMask_lt (h.addrField i))
    omega

/-! ### No match (R292) and the default (R294) -/

theorem classify_of_end_le {lo hi a w : Nat} (h : hi ≤ a) : classify lo hi a w = .noMatch := by
  simp [classify, h]

theorem addrMatch_of_two_pow_57_le (h : Hart) (i w : Nat) {a : Nat} (ha : 2 ^ 57 ≤ a) :
    addrMatch h i a w = .noMatch := by
  unfold addrMatch
  cases hr : pmpRange h i with
  | none => rfl
  | some range => exact classify_of_end_le ((pmpRange_end_le hr).trans ha)

/-- A scan in which no entry matches ends at the default. -/
theorem pmpScan_of_noMatch {h : Hart} {a w : Nat} {k : AccessKind} {p : Priv} {is : List Nat}
    (hno : ∀ i ∈ is, addrMatch h i a w = .noMatch) :
    pmpScan h a w k p is = if p = .M then none else some (accessFault k) := by
  induction is with
  | nil => rfl
  | cons i is ih =>
    obtain ⟨hi, his⟩ := List.forall_mem_cons.mp hno
    have hcontinue : entryResult h i a w k p = .continue := by simp [entryResult, hi]
    rw [pmpScan, hcontinue]
    exact ih his

/-- With entries implemented and none that matches, M is permitted and a lower level faults. -/
theorem pmpCheck_of_noMatch {cfg : Config} {h : Hart} {a w : Nat} {k : AccessKind} {p : Priv}
    (hcount : 0 < cfg.pmpCount.toNat) (hno : ∀ i < cfg.pmpCount.toNat, addrMatch h i a w = .noMatch) :
    pmpCheck cfg h a w k p = if p = .M then none else some (accessFault k) := by
  rw [pmpCheck, if_neg (Nat.ne_of_gt hcount), pmpScan_of_noMatch fun i hi => hno i (List.mem_range.mp hi)]

/-- With no entry that matches, M is permitted whatever entries there are. -/
theorem pmpCheck_M_of_noMatch {cfg : Config} {h : Hart} {a w : Nat} {k : AccessKind}
    (hno : ∀ i < cfg.pmpCount.toNat, addrMatch h i a w = .noMatch) : pmpCheck cfg h a w k .M = none := by
  rcases Nat.eq_zero_or_pos cfg.pmpCount.toNat with hzero | hcount
  · rw [pmpCheck, if_pos hzero]
  · rw [pmpCheck_of_noMatch hcount hno, if_pos rfl]

/-! ### CHECK_ACCESS (R290) -/

theorem exists_accessKindOf {kind : BitVec 6} (h : kind.toNat ≤ 2) : ∃ k, accessKindOf kind = some k :=
  Option.ne_none_iff_exists'.mp fun hnone => Nat.not_lt.mpr h (accessKindOf_eq_none.mp hnone)

theorem completes_checkAccess {s : State} {kind : BitVec 6} {k : AccessKind} (a : Word) (hf : s.hart.fatal = false)
    (hk : accessKindOf kind = some k) :
    Completes (exec (.checkAccess kind a) s) s s.hart .ok
      (checkResult (pmpCheck s.cfg s.hart a.toNat 8 k s.hart.priv)) 0 := by
  rw [exec, execCheckAccess, hk, guarded_some hf]
  exact completes_reply s .ok _

theorem checkResult_accessFault_ne_zero (k : AccessKind) : checkResult (some (accessFault k)) ≠ 0 := by
  cases k <;> decide

/-- Settles O45: no range reaches the address, so the scan ends at the default. -/
theorem noEntryReachesTwoToTheFiftySeven : Obligations.NoEntryReachesTwoToTheFiftySeven := by
  unfold Obligations.NoEntryReachesTwoToTheFiftySeven
  intro s kind a ha
  have hno : ∀ i, addrMatch s.hart i a.toNat 8 = .noMatch := fun i => addrMatch_of_two_pow_57_le s.hart i 8 ha
  refine ⟨hno, fun hf hkind hM => ?_, fun hf hkind hM hcount => ?_⟩
  · obtain ⟨k, hk⟩ := exists_accessKindOf hkind
    have hdone := completes_checkAccess a hf hk
    rwa [hM, pmpCheck_M_of_noMatch fun i _ => hno i] at hdone
  · obtain ⟨k, hk⟩ := exists_accessKindOf hkind
    have hdone := completes_checkAccess a hf hk
    rw [pmpCheck_of_noMatch hcount fun i _ => hno i, if_neg hM] at hdone
    exact ⟨_, checkResult_accessFault_ne_zero k, hdone⟩

end Sys2Proof.Machine

/-!
The encoding of the command port (spec 30_encoding.md R131, R133, R142, R147): the packed word keeps every field of a
request, and the decoder reads the op code and the fields of its row and nothing else.
-/

namespace Sys2Proof.Machine

/-! ### The packed request word -/

section word
variable (op : BitVec 8) (idx : BitVec 12) (kind : BitVec 6) (data data2 : Word) (vdata : Nat)

/-- The packed word as a sum: each field stands at its place value. -/
theorem wordOfRequest_eq :
    wordOfRequest ⟨op, idx, kind, data, data2, vdata⟩ =
      op.toNat + idx.toNat * 2 ^ 8 + kind.toNat * 2 ^ 20 + data.toNat * 2 ^ 26 + data2.toNat * 2 ^ 90 +
        vdata * 2 ^ 154 := by
  simp only [← Nat.shiftLeft_eq]
  rfl

/-- A word unpacks to a request when the request's fields are its digits. -/
theorem requestOfWord_eq_iff {w : Nat} : requestOfWord w = ⟨op, idx, kind, data, data2, vdata⟩ ↔
    w % 2 ^ 8 = op.toNat ∧ w / 2 ^ 8 % 2 ^ 12 = idx.toNat ∧ w / 2 ^ 20 % 2 ^ 6 = kind.toNat ∧
      w / 2 ^ 26 % 2 ^ 64 = data.toNat ∧ w / 2 ^ 90 % 2 ^ 64 = data2.toNat ∧ w / 2 ^ 154 = vdata := by
  simp only [requestOfWord, Nat.shiftRight_eq_div_pow, Request.mk.injEq, ← BitVec.toNat_inj, BitVec.toNat_ofNat]

end word

/-- Unpacking reads back every field: each lies on its own bits, and `vdata`, on top, may be any number. -/
theorem requestOfWord_wordOfRequest (r : Request) : requestOfWord (wordOfRequest r) = r := by
  obtain ⟨op, idx, kind, data, data2, vdata⟩ := r
  have hop := op.isLt
  have hidx := idx.isLt
  have hkind := kind.isLt
  have hdata := data.isLt
  have hdata2 := data2.isLt
  rw [wordOfRequest_eq, requestOfWord_eq_iff]
  refine ⟨?_, ?_, ?_, ?_, ?_, ?_⟩ <;> omega

/-- The decoder reads each command back from the request that issues it. -/
theorem decode_encode (i : Instr) : Sys2Proof.decode (encode i) = .ok i := by
  cases i <;> rfl

/-- Settles O12: the packed word keeps the request, and the request keeps the command. -/
theorem encodedCommandDecodesBack : Obligations.EncodedCommandDecodesBack := by
  unfold Obligations.EncodedCommandDecodesBack
  intro i
  rw [decodeWord, encodeWord, requestOfWord_wordOfRequest, decode_encode]

/-! ### The op code (R133, R142) -/

/-- A request that decodes to a command has the op code of the command's row. -/
theorem op_of_decode {r : Request} {i : Instr} (h : Sys2Proof.decode r = .ok i) :
    r.op.toNat = Laws.EncodedOp.opCode i := by
  unfold Sys2Proof.decode at h
  split at h <;> cases h <;> assumption

theorem opCode_not_reserved (i : Instr) : ¬ ReservedOp (Laws.EncodedOp.opCode i) := by
  cases i <;> simp [ReservedOp, Laws.EncodedOp.opCode]

theorem reserved_of_decode_error {r : Request} {e : DecodeReject} (h : Sys2Proof.decode r = .error e) :
    ReservedOp r.op.toNat := by
  have hop := r.op.isLt
  unfold Sys2Proof.decode at h
  split at h <;> cases h
  -- the branches passed over, in the form `¬ _` that `omega` reads
  simp only [imp_false] at *
  unfold ReservedOp
  omega

/-- The decoder rejects exactly the reserved op codes. -/
theorem exists_decode_error_iff {r : Request} : (∃ e, Sys2Proof.decode r = .error e) ↔ ReservedOp r.op.toNat := by
  constructor
  · rintro ⟨e, he⟩
    exact reserved_of_decode_error he
  · intro hres
    cases hd : Sys2Proof.decode r with
    | ok i => exact absurd (op_of_decode hd ▸ hres) (opCode_not_reserved i)
    | error e => exact ⟨e, rfl⟩

/-- Settles O11: each row's op code picks the row's branch of the decoder, and a reserved one is rejected. -/
theorem opCodeTable : Obligations.OpCodeTable := by
  unfold Obligations.OpCodeTable
  refine ⟨?_, ?_, ?_, ?_, ?_, ?_, ?_, ?_, ?_, ?_, ?_, ?_, ?_, ?_, ?_, ?_, ?_, ?_, ?_, ?_, ?_, ?_, ?_, ?_, ?_, ?_,
    fun r hres => exists_decode_error_iff.mpr hres⟩
  all_goals
    intro r hop
    simp [Sys2Proof.decode, hop]

/-- Settles O13: the shared op code picks one branch of the decoder, which holds the fields of its row alone. -/
theorem decodeReadsOnlyNamedFields : Obligations.DecodeReadsOnlyNamedFields := by
  unfold Obligations.DecodeReadsOnlyNamedFields
  intro r r' hop hidx hkind hdata hdata2 hvdata
  unfold Sys2Proof.decode
  rw [← hop]
  split
  all_goals
    next hrow => simp [hrow, hidx, hkind, hdata, hdata2, hvdata]

/-- Settles O10: the decoder run on the twelve words. -/
theorem tableWordsDecode : Obligations.TableWordsDecode := by
  unfold Obligations.TableWordsDecode
  decide

end Sys2Proof.Machine

/-!
The order in which a request is judged (spec 30_encoding.md R130, R135, R136, R142; 44_decode_lifecycle.md R332): said
once for every command as `Judged`, from which the answers FATAL, BAD_OP and BAD_OPERAND are read off.
-/

namespace Sys2Proof.Machine

/-! ### A command's own rule -/

/-- The outcome answers with a status that a command's own rule may give: neither BAD_OP nor BAD_OPERAND. -/
def AnswersByRule (o : Host.Outcome State Fault Refusal) : Prop :=
  ∃ t a, o = .next t ∧ t.response = some a ∧ a.status ≠ .badOp ∧ a.status ≠ .badOperand

theorem answersByRule_reply (s : State) {st : Status} (rd : Word) (hop : st ≠ .badOp) (hoperand : st ≠ .badOperand) :
    AnswersByRule (reply s st rd) :=
  ⟨_, _, rfl, rfl, hop, hoperand⟩

theorem answersByRule_reply_ok (s : State) (rd : Word) : AnswersByRule (reply s .ok rd) :=
  answersByRule_reply s rd (by decide) (by decide)

theorem answersByRule_commit_ok (s : State) (h : Hart) (rd : Word) : AnswersByRule (commit s h .ok rd) :=
  answersByRule_reply_ok (s.setHart h) rd

theorem answersByRule_answerWith_ok (s : State) (rd : Word) (rv : VReg) :
    AnswersByRule (.next (s.answerWith .ok rd rv)) :=
  ⟨_, _, rfl, rfl, by simp, by simp⟩

theorem answersByRule_answerOper (s : State) (op : Operation) : AnswersByRule (.next (s.answerOper op)) :=
  ⟨_, _, rfl, rfl, by simp, by simp⟩

/-- An index judged by R333 answers FATAL or the command's own rule. -/
theorem answersByRule_fatalIf {s : State} (bad : Prop) [Decidable bad] {body : Host.Outcome State Fault Refusal}
    (hbody : AnswersByRule body) : AnswersByRule (if bad then enterFatal s else body) := by
  split
  · exact answersByRule_reply (s.setHart _) 0 (by decide) (by decide)
  · exact hbody

/-! ### The order of checks (R136) -/

/-- The outcome `o` of a command performed in state `s` is the one the order of checks picks: FATAL in the fatal state,
then BAD_OPERAND when the operand is out of its domain, then the command's own rule. -/
structure Judged (s : State) (outOfDomain : Prop) (o : Host.Outcome State Fault Refusal) : Prop where
  fatal : s.hart.fatal = true → o = reply s .fatal 0
  operand : s.hart.fatal = false → outOfDomain → o = reply s .badOperand 0
  rule : s.hart.fatal = false → ¬ outOfDomain → AnswersByRule o

theorem judged_guarded {α : Type} {s : State} {o : Option α} {outOfDomain : Prop}
    {body : α → Host.Outcome State Fault Refusal} (hnone : o = none ↔ outOfDomain)
    (hbody : ∀ a, AnswersByRule (body a)) : Judged s outOfDomain (guarded s o body) where
  fatal hf := guarded_fatal hf o body
  operand hf hout := by rw [hnone.mpr hout, guarded_none hf]
  rule hf hin := by
    obtain ⟨a, rfl⟩ := Option.ne_none_iff_exists'.mp (mt hnone.mp hin)
    rw [guarded_some hf]
    exact hbody a

theorem judged_checked {s : State} {body : Host.Outcome State Fault Refusal} (hbody : AnswersByRule body) :
    Judged s False (checked s body) :=
  judged_guarded (by simp) fun _ => hbody

theorem judged_readCsr (idx : BitVec 12) (s : State) : Judged s False (execReadCsr idx s) := by
  refine judged_checked ?_
  cases visibleCsr s idx with
  | none => exact answersByRule_reply s 0 (by decide) (by decide)
  | some c => exact answersByRule_reply_ok s _

theorem judged_writeCsr (idx : BitVec 12) (v : Word) (s : State) : Judged s False (execWriteCsr idx v s) := by
  refine judged_checked ?_
  cases visibleCsr s idx with
  | none => exact answersByRule_reply s 0 (by decide) (by decide)
  | some c =>
    cases csrReadOnlySpace idx with
    | true => exact answersByRule_reply s 0 (by decide) (by decide)
    | false => exact answersByRule_commit_ok s _ _

theorem instrWord_eq_none {data : Word} : instrWord data = none ↔ data.extractLsb' 32 32 ≠ 0#32 := by
  have hdata := data.isLt
  rw [instrWord, ← BitVec.toNat_ne_iff_ne, BitVec.extractLsb'_toNat, Nat.shiftRight_eq_div_pow]
  split <;> simp <;> omega

/-- Every command but RESET is judged in order, by its row of R135's table. -/
theorem exec_judged {i : Instr} (hreset : i ≠ .reset) (s : State) : Judged s (OutOfDomain i) (exec i s) := by
  cases i with
  | reset => exact absurd rfl hreset
  | readGpr => exact judged_guarded regIndex_eq_none fun _ => answersByRule_reply_ok s _
  | writeGpr => exact judged_guarded regIndex_eq_none fun _ => answersByRule_commit_ok s _ _
  | readFpr => exact judged_guarded regIndex_eq_none fun _ => answersByRule_reply_ok s _
  | writeFpr => exact judged_guarded regIndex_eq_none fun _ => answersByRule_commit_ok s _ _
  | readVr => exact judged_guarded regIndex_eq_none fun _ => answersByRule_answerWith_ok s _ _
  | writeVr => exact judged_guarded regIndex_eq_none fun _ => answersByRule_commit_ok s _ _
  | readPc => exact judged_checked (answersByRule_reply_ok s _)
  | writePc => exact judged_checked (answersByRule_commit_ok s _ _)
  | readNextPc => exact judged_checked (answersByRule_reply_ok s _)
  | writeNextPc => exact judged_checked (answersByRule_commit_ok s _ _)
  | readHost => exact judged_guarded hostSelect_eq_none fun _ => answersByRule_reply_ok s _
  | writeHost => exact judged_guarded hostSelect_eq_none fun _ => answersByRule_commit_ok s _ _
  | readCsr idx => exact judged_readCsr idx s
  | writeCsr idx v => exact judged_writeCsr idx v s
  | isCsrDefined => exact judged_checked (answersByRule_reply_ok s _)
  | setVconfig => exact judged_checked (answersByRule_commit_ok s _ _)
  | setMipPlatform => exact judged_checked (answersByRule_commit_ok s _ _)
  | getPriv => exact judged_checked (answersByRule_reply_ok s _)
  | setPriv => exact judged_guarded levelOf_eq_none fun _ => answersByRule_commit_ok s _ _
  | injectException => exact judged_guarded excCode_eq_none fun _ => answersByRule_commit_ok s _ _
  | checkAccess => exact judged_guarded accessKindOf_eq_none fun _ => answersByRule_reply_ok s _
  | getPmpaddr => exact judged_checked (answersByRule_fatalIf _ (answersByRule_reply_ok s _))
  | setPmpaddr => exact judged_checked (answersByRule_fatalIf _ (answersByRule_commit_ok s _ _))
  | setPmpcfg => exact judged_checked (answersByRule_fatalIf _ (answersByRule_commit_ok s _ _))
  | decode => exact judged_guarded instrWord_eq_none fun _ => answersByRule_answerOper s _

theorem exec_reset_answersByRule (s : State) : AnswersByRule (exec .reset s) :=
  answersByRule_commit_ok s _ _

/-- Where the fatal check does not hold a command up, an operand out of its domain answers BAD_OPERAND. -/
theorem exec_of_outOfDomain {i : Instr} {s : State} (hlive : s.hart.fatal = false ∨ i = .reset)
    (hout : OutOfDomain i) : exec i s = reply s .badOperand 0 := by
  rcases hlive with hf | rfl
  · have hreset : i ≠ .reset := by
      rintro rfl
      exact hout
    exact (exec_judged hreset s).operand hf hout
  · exact hout.elim

/-- Where the fatal check does not hold a command up, an operand in its domain leaves the answer to the command's own
rule. -/
theorem exec_of_inDomain {i : Instr} {s : State} (hlive : s.hart.fatal = false ∨ i = .reset)
    (hin : ¬ OutOfDomain i) : AnswersByRule (exec i s) := by
  by_cases hreset : i = .reset
  · rw [hreset]
    exact exec_reset_answersByRule s
  · exact (exec_judged hreset s).rule (hlive.resolve_right hreset) hin

/-! ### Rejected requests (R142, R332) -/

theorem answerReject_of_fatal {s : State} (hf : s.hart.fatal = true) (e : DecodeReject) :
    answerReject e s = reply s .fatal 0 := by
  simp [answerReject, hf]

theorem answerReject_of_live {s : State} (hf : s.hart.fatal = false) (e : DecodeReject) :
    answerReject e s = reply s .badOp 0 := by
  simp [answerReject, hf]

theorem step_of_reservedOp {s : State} {r : Request} {rest : List Request} (hf : s.hart.fatal = false)
    (hs : s.requests = r :: rest) (hres : ReservedOp r.op.toNat) :
    step s = reply { s with requests := rest } .badOp 0 := by
  obtain ⟨e, he⟩ := exists_decode_error_iff.mpr hres
  rw [step_cons_error hs he]
  exact answerReject_of_live (s := { s with requests := rest }) hf e

/-! ### RESET's op code -/

/-- Op code `0x01`, and no other, selects RESET. -/
theorem eq_reset_iff_of_decode {r : Request} {i : Instr} (h : Sys2Proof.decode r = .ok i) :
    i = .reset ↔ r.op = 0x01#8 := by
  constructor
  · rintro rfl
    exact BitVec.eq_of_toNat_eq (op_of_decode h)
  · intro hop
    simpa [Sys2Proof.decode, hop, eq_comm] using h

/-- In the fatal state every request but RESET is answered FATAL, the reserved op codes included. -/
theorem step_of_fatal {s : State} {r : Request} {rest : List Request} (hf : s.hart.fatal = true)
    (hs : s.requests = r :: rest) (hop : r.op ≠ 0x01#8) : step s = reply { s with requests := rest } .fatal 0 := by
  cases hd : Sys2Proof.decode r with
  | ok i =>
    rw [step_cons_ok hs hd]
    exact (exec_judged (mt (eq_reset_iff_of_decode hd).mp hop) _).fatal hf
  | error e =>
    rw [step_cons_error hs hd]
    exact answerReject_of_fatal (s := { s with requests := rest }) hf e

/-! ### The claims -/

/-- Settles O4: the fatal check stands before the decoder's verdict, and past both the command is judged by its
operand. -/
theorem checksAreJudgedInOrder : Obligations.ChecksAreJudgedInOrder := by
  unfold Obligations.ChecksAreJudgedInOrder
  intro s r rest hs s'
  refine ⟨fun hf hop => ?_, fun hlive => ⟨fun hres => ?_, fun i hd hout => ?_, fun i hd hin => ?_⟩⟩
  · rw [step_of_fatal hf hs hop]
    exact completes_reply s' .fatal 0
  · have hf : s.hart.fatal = false := by
      refine hlive.resolve_right fun hop => ?_
      simp [hop, ReservedOp] at hres
    rw [step_of_reservedOp hf hs hres]
    exact completes_reply s' .badOp 0
  · rw [step_cons_ok hs hd, exec_of_outOfDomain (s := s') (hlive.imp_right (eq_reset_iff_of_decode hd).mpr) hout]
    exact completes_reply s' .badOperand 0
  · exact ⟨step_cons_ok hs hd, exec_of_inDomain (hlive.imp_right (eq_reset_iff_of_decode hd).mpr) hin⟩

/-- Settles O5: outside the fatal state the operand's domain alone decides on BAD_OPERAND. -/
theorem operandOutOfDomainAnswersBadOperand : Obligations.OperandOutOfDomainAnswersBadOperand := by
  unfold Obligations.OperandOutOfDomainAnswersBadOperand
  intro i s hf
  refine ⟨fun hout => ?_, fun hin => ?_⟩
  · rw [exec_of_outOfDomain (.inl hf) hout]
    exact completes_reply s .badOperand 0
  · obtain ⟨t, a, hexec, ha, _, hoperand⟩ := exec_of_inDomain (.inl hf) hin
    exact ⟨t, a, hexec, ha, hoperand⟩

/-- Settles O6: what the decoder rejects, and how the step answers it. -/
theorem reservedOpCodesAnswerBadOp : Obligations.ReservedOpCodesAnswerBadOp := by
  unfold Obligations.ReservedOpCodesAnswerBadOp
  refine ⟨fun r => exists_decode_error_iff, fun s r rest hf hs hres => ?_⟩
  rw [step_of_reservedOp hf hs hres]
  exact completes_reply { s with requests := rest } .badOp 0

/-- Settles O7: the step with a request that decodes, and with none. -/
theorem stepRunsTheDecodedCommand : Obligations.StepRunsTheDecodedCommand := by
  unfold Obligations.StepRunsTheDecodedCommand
  exact ⟨fun _ _ _ _ hs hd => step_cons_ok hs hd, fun _ hs => step_nil hs⟩

/-! ### STEP after a trap (R146, R263, R264) -/

/-- Settles O53: trap entry puts the vector of the level it enters in `nextPC`, and STEP moves it to `pc`. -/
theorem stepAfterTrapEntersTheHandler : Obligations.StepAfterTrapEntersTheHandler := by
  unfold Obligations.StepAfterTrapEntersTheHandler
  intro s kind v hf hkind t u
  have hcode : excCode kind = some ⟨kind.toNat, Nat.lt_succ_of_le hkind⟩ := excCode_eq_some.mpr rfl
  have htrap : t.hart = takeException s.cfg s.hart ⟨kind.toNat, Nat.lt_succ_of_le hkind⟩ v :=
    raiseCode_hart hf hcode
  have hstep : u.hart = { t.hart with pc := t.hart.nextPC } := by
    refine pseudoStep_hart ?_
    rw [htrap, takeException_eq]
    exact hf
  refine ⟨hstep, ?_⟩
  rw [hstep, htrap, takeException_eq]
  rfl

end Sys2Proof.Machine

/-!
The register file, program counters and host registers (spec 40_register_file.md R170-R182): outside the fatal state each
command completes as its rule says, once its operand is in its domain, and with BAD_OPERAND otherwise. The claims put
these completions together with what a read finds after a write.
-/

namespace Sys2Proof.Machine

/-! ### Past the checks -/

/-- Past the order of checks the command's own rule decides how it completes. -/
theorem completes_guarded {α : Type} {s : State} {o : Option α} {a : α} {body : α → Host.Outcome State Fault Refusal}
    {h : Hart} {st : Status} {rd : Word} {rv : VReg} (hf : s.hart.fatal = false) (ho : o = some a)
    (hbody : Completes (body a) s h st rd rv) : Completes (guarded s o body) s h st rd rv := by
  rw [ho, guarded_some hf]
  exact hbody

theorem completes_checked {s : State} {body : Host.Outcome State Fault Refusal} {h : Hart} {st : Status} {rd : Word}
    {rv : VReg} (hf : s.hart.fatal = false) (hbody : Completes body s h st rd rv) :
    Completes (checked s body) s h st rd rv :=
  completes_guarded hf rfl hbody

theorem completes_of_outOfDomain {i : Instr} {s : State} (hf : s.hart.fatal = false) (hout : OutOfDomain i) :
    Completes (exec i s) s s.hart .badOperand 0 0 := by
  rw [exec_of_outOfDomain (.inl hf) hout]
  exact completes_reply s .badOperand 0

/-! ### The register files (R170-R175) -/

section registers
variable {s : State} {idx : BitVec 12} {i : RegIndex}

theorem completes_readGpr (hf : s.hart.fatal = false) (hi : idx.toNat = i.val) :
    Completes (exec (.readGpr idx) s) s s.hart .ok (s.hart.readX i) 0 :=
  completes_guarded hf (regIndex_eq_some.mpr hi) (completes_reply s .ok _)

theorem completes_writeGpr (v : Word) (hf : s.hart.fatal = false) (hi : idx.toNat = i.val) :
    Completes (exec (.writeGpr idx v) s) s (s.hart.writeX i v) .ok 0 0 :=
  completes_guarded hf (regIndex_eq_some.mpr hi) (completes_commit s _ .ok 0)

theorem completes_readFpr (hf : s.hart.fatal = false) (hi : idx.toNat = i.val) :
    Completes (exec (.readFpr idx) s) s s.hart .ok (s.hart.readF i) 0 :=
  completes_guarded hf (regIndex_eq_some.mpr hi) (completes_reply s .ok _)

theorem completes_writeFpr (v : Word) (hf : s.hart.fatal = false) (hi : idx.toNat = i.val) :
    Completes (exec (.writeFpr idx v) s) s (s.hart.writeF i v) .ok 0 0 :=
  completes_guarded hf (regIndex_eq_some.mpr hi) (completes_commit s _ .ok 0)

theorem completes_readVr (hf : s.hart.fatal = false) (hi : idx.toNat = i.val) :
    Completes (exec (.readVr idx) s) s s.hart .ok 0 (s.hart.readV i) :=
  completes_guarded hf (regIndex_eq_some.mpr hi) (completes_answerWith s .ok 0 _)

theorem completes_writeVr (v : VReg) (hf : s.hart.fatal = false) (hi : idx.toNat = i.val) :
    Completes (exec (.writeVr idx v) s) s (s.hart.writeV s.cfg i v) .ok 0 0 :=
  completes_guarded hf (regIndex_eq_some.mpr hi) (completes_commit s _ .ok 0)

end registers

/-- x1..x31 stand at positions 0..30 of the file (R25). -/
theorem readX_succ (h : Hart) (i : Fin 31) : h.readX i.succ = h.x[i] := rfl

/-- A write of x0 is discarded (R25). -/
theorem writeX_zero (h : Hart) (v : Word) : h.writeX 0 v = h := rfl

/-! ### The host registers (R180, R181) -/

section host
variable {s : State} {idx : BitVec 12} {r : HostReg}

theorem completes_readHost (hf : s.hart.fatal = false) (hr : hostSelect idx = some r) :
    Completes (exec (.readHost idx) s) s s.hart .ok (s.hart.readHost r) 0 :=
  completes_guarded hf hr (completes_reply s .ok _)

theorem completes_writeHost (v : Word) (hf : s.hart.fatal = false) (hr : hostSelect idx = some r) :
    Completes (exec (.writeHost idx v) s) s (s.hart.writeHost r v) .ok 0 0 :=
  completes_guarded hf hr (completes_commit s _ .ok 0)

end host

/-! ### The claims -/

/-- Settles O14: the register read is x0, or the one at the position below the index. -/
theorem readGprAnswersTheRegister : Obligations.ReadGprAnswersTheRegister := by
  unfold Obligations.ReadGprAnswersTheRegister
  obtain ⟨-, hread, -⟩ := opCodeTable
  refine ⟨hread, fun s idx hf => ⟨?_, fun i hi => ?_, fun hout => completes_of_outOfDomain hf hout⟩⟩
  · rintro rfl
    exact completes_readGpr (i := 0) hf rfl
  · rw [← readX_succ]
    exact completes_readGpr hf hi

/-- Settles O15: the command commits the write of its register, which changes the `x` file alone and there what that
index reads. -/
theorem writeGprStoresVerbatim : Obligations.WriteGprStoresVerbatim := by
  unfold Obligations.WriteGprStoresVerbatim
  obtain ⟨-, -, hwrite, -⟩ := opCodeTable
  refine ⟨hwrite, fun s idx v hf => ⟨?_, fun hpos hle => ?_, fun hout => completes_of_outOfDomain hf hout⟩⟩
  · rintro rfl
    have hdone := completes_writeGpr (idx := 0) (i := 0) v hf rfl
    rwa [writeX_zero] at hdone
  · have hlt : idx.toNat < 32 := by omega
    have hne : (⟨idx.toNat, hlt⟩ : RegIndex) ≠ 0 := Fin.ne_of_val_ne hpos.ne'
    refine ⟨s.hart.writeX ⟨idx.toNat, hlt⟩ v, completes_writeGpr v hf rfl, writeX_eq .., fun j => ?_⟩
    simp only [readX_writeX, hne, ne_eq, not_false_iff, and_true, Fin.ext_iff]

/-- Settles O16: the configuration stands nowhere in the rule of either command, and the write changes the `f` file
alone. -/
theorem fprCommandsMoveSixtyFourBits : Obligations.FprCommandsMoveSixtyFourBits := by
  unfold Obligations.FprCommandsMoveSixtyFourBits
  obtain ⟨-, -, -, hread, hwrite, -⟩ := opCodeTable
  refine ⟨hread, hwrite, fun s idx v hf => ⟨fun i hi => ⟨completes_readFpr hf hi, ?_⟩, fun hout => ?_⟩⟩
  · exact ⟨s.hart.writeF i v, completes_writeFpr v hf hi, rfl, fun j => readF_writeF _ i j v⟩
  · exact ⟨completes_of_outOfDomain hf hout, completes_of_outOfDomain hf hout⟩

/-- Settles O17: a value of VLEN bits is its own remainder, so the register takes it whole. -/
theorem vrCommandsMoveVlenBits : Obligations.VrCommandsMoveVlenBits := by
  unfold Obligations.VrCommandsMoveVlenBits
  obtain ⟨-, -, -, -, -, hread, hwrite, -⟩ := opCodeTable
  refine ⟨hread, hwrite, fun s idx v hf => ⟨fun i hi => ⟨completes_readVr hf hi, fun hv => ?_⟩, fun hout => ?_⟩⟩
  · refine ⟨s.hart.writeV s.cfg i v, completes_writeVr v hf hi, rfl, fun j => ?_⟩
    rw [readV_writeV, Nat.mod_eq_of_lt hv]
  · exact ⟨completes_of_outOfDomain hf hout, completes_of_outOfDomain hf hout⟩

/-- Settles O19: the four commands have no operand to judge, and each answers or commits what its rule says. -/
theorem programCounterCommands : Obligations.ProgramCounterCommands := by
  unfold Obligations.ProgramCounterCommands
  obtain ⟨-, -, -, -, -, -, -, hreadPc, hwritePc, hreadNextPc, hwriteNextPc, -⟩ := opCodeTable
  refine ⟨hreadPc, hwritePc, hreadNextPc, hwriteNextPc, fun s v hf => ⟨?_, ?_, ?_, ?_⟩⟩
  · exact completes_checked hf (completes_reply s .ok s.hart.pc)
  · exact completes_checked hf (completes_commit s { s.hart with pc := v } .ok 0)
  · exact completes_checked hf (completes_reply s .ok s.hart.nextPC)
  · exact completes_checked hf (completes_commit s { s.hart with nextPC := v } .ok 0)

/-- Settles O20: the select names the register that is read or written. -/
theorem hostRegisterCommands : Obligations.HostRegisterCommands := by
  unfold Obligations.HostRegisterCommands
  obtain ⟨-, -, -, -, -, -, -, -, -, -, -, hread, hwrite, -⟩ := opCodeTable
  refine ⟨hread, hwrite, fun s idx v hf => ⟨?_, ?_, fun hout => ?_⟩⟩
  · rintro rfl
    exact ⟨completes_readHost (r := .tohost) hf rfl, completes_writeHost (r := .tohost) v hf rfl⟩
  · rintro rfl
    exact ⟨completes_readHost (r := .fromhost) hf rfl, completes_writeHost (r := .fromhost) v hf rfl⟩
  · exact ⟨completes_of_outOfDomain hf hout, completes_of_outOfDomain hf hout⟩

/-- Settles O21: the write leaves the hart `s.hart.writeX i v`, still not fatal, so every read after it answers what
`readX_writeX` says. -/
theorem registerFileLaws : Obligations.RegisterFileLaws := by
  unfold Obligations.RegisterFileLaws
  intro s i j v hf hi hj
  have hi32 : i.toNat < 32 := by omega
  have hj32 : j.toNat < 32 := by omega
  obtain ⟨t, _, hexec, _, hhart, _⟩ := completes_writeGpr (i := ⟨i.toNat, hi32⟩) v hf rfl
  have hft : t.hart.fatal = false := by rw [hhart, writeX_fatal, hf]
  refine ⟨t, hexec, completes_readGpr (i := 0) hf rfl, completes_readGpr (i := 0) hft rfl, fun hne => ?_,
    fun hji => ⟨s.hart.readX ⟨j.toNat, hj32⟩, completes_readGpr hf rfl, ?_⟩⟩
  · have hne0 : (⟨i.toNat, hi32⟩ : RegIndex) ≠ 0 :=
      Fin.ne_of_val_ne (BitVec.toNat_ne_iff_ne (y := 0#12) |>.mpr hne)
    have hsame : t.hart.readX ⟨i.toNat, hi32⟩ = v := by rw [hhart, readX_writeX, if_pos ⟨rfl, hne0⟩]
    exact hsame ▸ completes_readGpr hft rfl
  · have hother : (⟨j.toNat, hj32⟩ : RegIndex) ≠ ⟨i.toNat, hi32⟩ :=
      Fin.ne_of_val_ne (BitVec.toNat_ne_iff_ne.mpr hji)
    have hkept : t.hart.readX ⟨j.toNat, hj32⟩ = s.hart.readX ⟨j.toNat, hj32⟩ := by
      rw [hhart, readX_writeX, if_neg (fun hsame => hother hsame.1)]
    exact hkept ▸ completes_readGpr hft rfl

end Sys2Proof.Machine

/-!
The CSR file (spec 41_csr_file.md R200-R222): which CSR a number reaches, how the five commands complete outside the
fatal state, what each CSR reads, and what each write leaves. A table of the spec is the list of its CSRs, each with its
number, so its rows are settled together by one completion.
-/

namespace Sys2Proof.Machine

/-! ### The CSR a number reaches (R203, R205, R137) -/

theorem csrDefined_iff {cfg : Config} {p : Priv} {id : BitVec 12} :
    csrDefined cfg p id = true ↔ csrExists cfg id = true ∧ id.toNat / 256 % 4 ≤ p.enc.toNat := by
  simp only [csrDefined, csrMinPriv, Bool.and_eq_true, decide_eq_true_eq, BitVec.extractLsb'_toNat,
    Nat.shiftRight_eq_div_pow, Nat.reducePow]

theorem csrReadOnlySpace_iff {id : BitVec 12} : csrReadOnlySpace id = true ↔ id.toNat / 1024 = 3 := by
  have hid := id.isLt
  rw [csrReadOnlySpace, beq_iff_eq, ← BitVec.toNat_inj, BitVec.extractLsb'_toNat, Nat.shiftRight_eq_div_pow,
    BitVec.toNat_ofNat]
  omega

/-- A defined number is the number of a CSR. -/
theorem exists_csr_of_defined {cfg : Config} {p : Priv} {id : BitVec 12} (hdef : csrDefined cfg p id = true) :
    ∃ c : Csr, c.number = id := by
  obtain ⟨c, hc, _⟩ := csrExists_iff.mp (csrDefined_iff.mp hdef).1
  exact ⟨c, hc⟩

theorem visibleCsr_of_undefined {s : State} {id : BitVec 12} (hdef : csrDefined s.cfg s.hart.priv id = false) :
    visibleCsr s id = none := by
  rw [visibleCsr, hdef, if_neg Bool.false_ne_true]

theorem visibleCsr_of_defined {s : State} {c : Csr} (hdef : csrDefined s.cfg s.hart.priv c.number = true) :
    visibleCsr s c.number = some c := by
  rw [visibleCsr, if_pos hdef, csrOfNumber_number]

/-! ### How the CSR commands complete (R200-R202) -/

section commands
variable {s : State} {id : BitVec 12} {c : Csr}

theorem completes_isCsrDefined (hf : s.hart.fatal = false) {defined : Bool}
    (hdef : csrDefined s.cfg s.hart.priv id = defined) :
    Completes (exec (.isCsrDefined id) s) s s.hart .ok (if defined then 1 else 0) 0 :=
  hdef ▸ completes_checked hf (completes_reply s .ok _)

theorem completes_readCsr_undefined (hf : s.hart.fatal = false) (hdef : csrDefined s.cfg s.hart.priv id = false) :
    Completes (exec (.readCsr id) s) s s.hart .csrUndefined 0 0 := by
  refine completes_checked hf ?_
  rw [visibleCsr_of_undefined hdef]
  exact completes_reply s .csrUndefined 0

theorem completes_readCsr (hf : s.hart.fatal = false) (hdef : csrDefined s.cfg s.hart.priv c.number = true) :
    Completes (exec (.readCsr c.number) s) s s.hart .ok (csrView s.cfg s.hart c) 0 := by
  refine completes_checked hf ?_
  rw [visibleCsr_of_defined hdef]
  exact completes_reply s .ok _

theorem completes_writeCsr_undefined (v : Word) (hf : s.hart.fatal = false)
    (hdef : csrDefined s.cfg s.hart.priv id = false) :
    Completes (exec (.writeCsr id v) s) s s.hart .csrUndefined 0 0 := by
  refine completes_checked hf ?_
  rw [visibleCsr_of_undefined hdef]
  exact completes_reply s .csrUndefined 0

theorem completes_writeCsr_readOnly (v : Word) (hf : s.hart.fatal = false)
    (hdef : csrDefined s.cfg s.hart.priv c.number = true) (hro : csrReadOnlySpace c.number = true) :
    Completes (exec (.writeCsr c.number v) s) s s.hart .csrReadOnly 0 0 := by
  refine completes_checked hf ?_
  simp only [visibleCsr_of_defined hdef, if_pos hro]
  exact completes_reply s .csrReadOnly 0

theorem completes_writeCsr (v : Word) (hf : s.hart.fatal = false)
    (hdef : csrDefined s.cfg s.hart.priv c.number = true) (hrw : csrReadOnlySpace c.number = false) :
    Completes (exec (.writeCsr c.number v) s) s (csrWrite s.cfg s.hart c v) .ok 0 0 := by
  refine completes_checked hf ?_
  simp only [visibleCsr_of_defined hdef, hrw, Bool.false_eq_true, if_false]
  exact completes_commit s _ .ok 0

end commands

/-- The CSRs a write reaches in the CSR file: all but the PMP registers and the read-only space. -/
def storedCsrs : List Csr := lowCsrs ++ machineCsrs

theorem csrReadOnlySpace_of_stored {c : Csr} (hc : c ∈ storedCsrs) : csrReadOnlySpace c.number = false := by
  have hall : ∀ c ∈ storedCsrs, csrReadOnlySpace c.number = false := by decide
  exact hall c hc

theorem csrWrite_of_stored (cfg : Config) (h : Hart) {c : Csr} (hc : c ∈ storedCsrs) (v : Word) :
    csrWrite cfg h c v = { h with csr := csrStorageWrite cfg h.csr v c } := by
  unfold csrWrite
  split
  next => simp [storedCsrs, lowCsrs, machineCsrs] at hc
  next => simp [storedCsrs, lowCsrs, machineCsrs] at hc
  next => rfl

theorem completes_writeCsr_stored {s : State} {c : Csr} (hc : c ∈ storedCsrs) (v : Word) (hf : s.hart.fatal = false)
    (hdef : csrDefined s.cfg s.hart.priv c.number = true) :
    Completes (exec (.writeCsr c.number v) s) s { s.hart with csr := csrStorageWrite s.cfg s.hart.csr v c } .ok 0 0 :=
  csrWrite_of_stored s.cfg s.hart hc v ▸ completes_writeCsr v hf hdef (csrReadOnlySpace_of_stored hc)

/-! ### The statuses -/

/-- Settles O23: `defined(id)` is the existence and the level, and the query answers it as 1 or 0. -/
theorem isCsrDefinedAnswersVisibility : Obligations.IsCsrDefinedAnswersVisibility := by
  unfold Obligations.IsCsrDefinedAnswersVisibility
  obtain ⟨-, -, -, -, -, -, -, -, -, -, -, -, -, -, -, hquery, -⟩ := opCodeTable
  refine ⟨hquery, fun s id hf => ⟨fun hvisible => ?_, fun hhidden => ?_⟩⟩
  · exact completes_isCsrDefined hf (csrDefined_iff.mpr hvisible)
  · exact completes_isCsrDefined hf (Bool.eq_false_iff.mpr fun hdef => hhidden (csrDefined_iff.mp hdef))

/-- Settles O24: no CSR is visible at an undefined number, and the one visible at a defined number is the one whose
number it is. -/
theorem undefinedCsrIsRejected : Obligations.UndefinedCsrIsRejected := by
  unfold Obligations.UndefinedCsrIsRejected
  refine fun s id v hf => ⟨fun hundef => ⟨?_, ?_, ?_⟩, fun hdef => ?_⟩
  · exact completes_readCsr_undefined hf hundef
  · exact completes_writeCsr_undefined v hf hundef
  · exact completes_isCsrDefined hf hundef
  · obtain ⟨c, rfl⟩ := exists_csr_of_defined hdef
    exact ⟨c, rfl, completes_readCsr hf hdef⟩

/-- Settles O27: the visible CSR is the one whose number it is, and the number's top bits decide whether it is
written. -/
theorem writeCsrStatuses : Obligations.WriteCsrStatuses := by
  unfold Obligations.WriteCsrStatuses
  obtain ⟨-, -, -, -, -, -, -, -, -, -, -, -, -, -, hwrite, -⟩ := opCodeTable
  refine ⟨hwrite, fun s id v hf => ⟨completes_writeCsr_undefined v hf, fun hdef hro => ?_, fun hdef hrw => ?_⟩⟩
  · obtain ⟨c, rfl⟩ := exists_csr_of_defined hdef
    exact completes_writeCsr_readOnly v hf hdef (csrReadOnlySpace_iff.mpr hro)
  · obtain ⟨c, rfl⟩ := exists_csr_of_defined hdef
    exact ⟨c, rfl, completes_writeCsr v hf hdef (Bool.eq_false_iff.mpr fun hro => hrw (csrReadOnlySpace_iff.mp hro))⟩

/-! ### The read table (R204) -/

/-- The rows of a read table are the numbers of its CSRs, each with its view. -/
theorem completes_readCsr_rows {s : State} (hf : s.hart.fatal = false) {rows : List (BitVec 12 × Word)} (cs : List Csr)
    (hrows : rows = cs.map fun c => (c.number, csrView s.cfg s.hart c)) :
    ∀ row ∈ rows, csrDefined s.cfg s.hart.priv row.1 = true →
      Completes (exec (.readCsr row.1) s) s s.hart .ok row.2 0 := by
  subst hrows
  exact List.forall_mem_map.mpr fun c _ hdef => completes_readCsr hf hdef

/-- `vcsr` reads `vxrm` in bits 2:1 above `vxsat` in bit 0 (R50). -/
theorem vcsrView_eq (vxrm : BitVec 2) (vxsat : BitVec 1) :
    vcsrView vxrm vxsat = (vxrm.setWidth 64 <<< 1) ||| vxsat.setWidth 64 := by
  revert vxrm vxsat
  decide

theorem epcMask_eq (cfg : Config) : epcMask cfg = if cfg.hasC then ~~~1#64 else ~~~3#64 := rfl

/-- `mvendorid` reads the low 32 bits of its constant. -/
theorem setWidth_extractLsb'_low_32 (v : Word) : (v.extractLsb' 0 32).setWidth 64 = v &&& 0xFFFFFFFF#64 := by
  apply BitVec.eq_of_toNat_eq
  have hmask : (0xFFFFFFFF#64).toNat = 2 ^ 32 - 1 := by decide
  rw [BitVec.toNat_setWidth, BitVec.extractLsb'_toNat, BitVec.toNat_and, hmask, Nat.and_two_pow_sub_one_eq_mod,
    Nat.shiftRight_zero]
  omega

/-- Byte `k` of `pmpcfg n` is the byte of entry `4n + k` (R54). -/
theorem extractLsb'_readPmpcfg (h : Hart) (n : Nat) {k : Nat} (hk : k < 8) :
    (h.readPmpcfg n).extractLsb' (8 * k) 8 = h.cfgByte (4 * n + k) := by
  unfold Hart.readPmpcfg
  -- drop the `k` bytes below: the lowest byte of the others is the one asked for
  interval_cases k <;> repeat rw [BitVec.extractLsb'_append_eq_of_le (by decide)]
  iterate 7 exact BitVec.extractLsb'_append_eq_right
  exact BitVec.extractLsb'_eq_self

/-- Settles O25: each row of the table is a CSR's number with its view, and the PMP registers read their entries. -/
theorem readCsrAnswersTheTable : Obligations.ReadCsrAnswersTheTable := by
  unfold Obligations.ReadCsrAnswersTheTable
  obtain ⟨-, -, -, -, -, -, -, -, -, -, -, -, -, hread, -⟩ := opCodeTable
  refine ⟨hread, fun s hf => ⟨fun id => completes_readCsr_undefined hf, ?_, fun n hn hdef => ?_, fun i hi hdef => ?_⟩⟩
  · refine completes_readCsr_rows hf (lowCsrs ++ machineCsrs ++ readOnlyCsrs) ?_
    rw [← vcsrView_eq, ← epcMask_eq, ← misaValue_eq, ← setWidth_extractLsb'_low_32]
    rfl
  · exact ⟨s.hart.readPmpcfg n, completes_readCsr (c := .pmpcfg ⟨n, hn⟩) hf hdef,
      fun k hk => extractLsb'_readPmpcfg s.hart n hk⟩
  · exact completes_readCsr (c := .pmpaddr ⟨i, hi⟩) hf hdef

/-! ### The writes of `mstatus` and `sstatus` (R207, R208) -/

theorem extractLsb'_setField (v : Word) (lo : Nat) {w : Nat} (x : BitVec w) (hw : lo + w ≤ 64) :
    (setField v lo x).extractLsb' lo w = x := by
  apply BitVec.eq_of_getLsbD_eq
  intro j hj
  rw [BitVec.getLsbD_extractLsb', getLsbD_setField v lo x hw, if_pos (by omega), Nat.add_sub_cancel_left]
  simp [hj]

theorem extractLsb'_setField_outside (v : Word) (lo : Nat) {w : Nat} (x : BitVec w) (hw : lo + w ≤ 64) {k n : Nat}
    (hout : k + n ≤ lo ∨ lo + w ≤ k) : (setField v lo x).extractLsb' k n = v.extractLsb' k n := by
  apply BitVec.eq_of_getLsbD_eq
  intro j hj
  rw [BitVec.getLsbD_extractLsb', BitVec.getLsbD_extractLsb', getLsbD_setField v lo x hw, if_neg (by omega)]

theorem getLsbD_mstatusWrite (cfg : Config) (s v : Word) {j : Nat} (hj : j < 64) (h11 : j ≠ 11) (h12 : j ≠ 12) :
    (mstatusWrite cfg s v).getLsbD j = if rwBit cfg j then v.getLsbD j else s.getLsbD j := by
  rw [mstatusWrite, getLsbD_setField _ _ _ (by decide), if_neg (by omega), getLsbD_maskedWrite,
    getLsbD_mstatusRw cfg j hj]

theorem mppLegal_iff {cfg : Config} {p : BitVec 2} :
    mppLegal cfg p = true ↔ p = 3#2 ∨ (p = 1#2 ∧ cfg.hasS = true) ∨ (p = 0#2 ∧ cfg.hasU = true) := by
  simp only [mppLegal, Bool.or_eq_true, Bool.and_eq_true, beq_iff_eq, or_assoc]

/-- MPP takes a legal level and else keeps its value. -/
theorem mpp_mstatusWrite (cfg : Config) (s v : Word) :
    (mstatusWrite cfg s v).extractLsb' 11 2 =
      if v.extractLsb' 11 2 = 3#2 ∨ (v.extractLsb' 11 2 = 1#2 ∧ cfg.hasS = true) ∨
          (v.extractLsb' 11 2 = 0#2 ∧ cfg.hasU = true)
      then v.extractLsb' 11 2 else s.extractLsb' 11 2 := by
  rw [mstatusWrite, extractLsb'_setField _ _ _ (by decide)]
  simp only [mppLegal_iff, mppOf]

theorem getLsbD_sstatusWmask {j : Nat} (hj : j < 64) :
    sstatusWmask.getLsbD j = decide (j ∈ [1, 5, 8, 9, 10, 13, 14, 18, 19]) := by
  revert j
  decide

theorem getLsbD_sstatusWrite (cfg : Config) (s v : Word) {j : Nat} (hj : j < 64) :
    (sstatusWrite cfg s v).getLsbD j =
      if j ∈ [1, 5, 8, 9, 10, 13, 14, 18, 19] ∧ rwBit cfg j = true then v.getLsbD j else s.getLsbD j := by
  simp only [sstatusWrite, getLsbD_maskedWrite, BitVec.getLsbD_and, getLsbD_sstatusWmask hj, getLsbD_mstatusRw cfg j hj,
    Bool.and_eq_true, decide_eq_true_eq]

/-- Settles O28: the stored words are `mstatusWrite` and `sstatusWrite`, and `misa` has no storage. -/
theorem statusWritesAreLegalized : Obligations.StatusWritesAreLegalized := by
  unfold Obligations.StatusWritesAreLegalized
  refine fun s v hf => ⟨fun hdef => ?_, fun hdef => ?_, fun hdef => ?_⟩
  · exact ⟨mstatusWrite s.cfg s.hart.csr.mstatus v, completes_writeCsr_stored (c := .mstatus) (by decide) v hf hdef,
      fun j hj h11 h12 => getLsbD_mstatusWrite s.cfg _ v hj h11 h12, mpp_mstatusWrite s.cfg _ v⟩
  · exact ⟨sstatusWrite s.cfg s.hart.csr.mstatus v, completes_writeCsr_stored (c := .sstatus) (by decide) v hf hdef,
      fun j hj => getLsbD_sstatusWrite s.cfg _ v hj⟩
  · exact completes_writeCsr_stored (c := .misa) (by decide) v hf hdef

/-! ### The writes of the trap vectors and exception PCs (R214, R215) -/

/-- The MODE a trap-vector write leaves: 0 and 1 as asked, the old one for the reserved modes. -/
def tvecMode (old v : Word) : BitVec 2 :=
  if v.extractLsb' 0 2 = 0#2 ∨ v.extractLsb' 0 2 = 1#2 then v.extractLsb' 0 2 else old.extractLsb' 0 2

theorem toNat_le_one_iff {x : BitVec 2} : x.toNat ≤ 1 ↔ x = 0#2 ∨ x = 1#2 := by
  revert x
  decide

/-- A trap-vector write is the value with its MODE legalized. -/
theorem tvecWrite_eq (old v : Word) : tvecWrite old v = setField v 0 (tvecMode old v) := by
  simp only [tvecWrite, toNat_le_one_iff, tvecMode, setField, BitVec.shiftLeft_zero]
  rfl

theorem extractLsb'_tvecWrite_base (old v : Word) : (tvecWrite old v).extractLsb' 2 62 = v.extractLsb' 2 62 := by
  rw [tvecWrite_eq, extractLsb'_setField_outside _ _ _ (by decide) (by decide)]

theorem extractLsb'_tvecWrite_mode (old v : Word) : (tvecWrite old v).extractLsb' 0 2 = tvecMode old v := by
  rw [tvecWrite_eq, extractLsb'_setField _ _ _ (by decide)]

/-- Settles O30: the trap vectors store `tvecWrite`, the exception PCs the value under `epcMask`. -/
theorem trapVectorAndEpcWrites : Obligations.TrapVectorAndEpcWrites := by
  unfold Obligations.TrapVectorAndEpcWrites
  refine fun s v hf => ⟨fun hdef => ?_, fun hdef => ?_, fun hdef => ?_, fun hdef => ?_⟩
  · exact ⟨tvecWrite s.hart.csr.mtvec v, completes_writeCsr_stored (c := .mtvec) (by decide) v hf hdef,
      extractLsb'_tvecWrite_base _ v, extractLsb'_tvecWrite_mode _ v⟩
  · exact ⟨tvecWrite s.hart.csr.stvec v, completes_writeCsr_stored (c := .stvec) (by decide) v hf hdef,
      extractLsb'_tvecWrite_base _ v, extractLsb'_tvecWrite_mode _ v⟩
  · rw [← epcMask_eq]
    exact completes_writeCsr_stored (c := .mepc) (by decide) v hf hdef
  · rw [← epcMask_eq]
    exact completes_writeCsr_stored (c := .sepc) (by decide) v hf hdef

/-! ### The writes of the interrupt registers and their views (R210-R213) -/

theorem mieWmask_eq (cfg : Config) : mieWmask cfg = if cfg.hasS then 0xAAA#64 else 0x888#64 := by
  unfold mieWmask
  cases cfg.hasS <;> decide

/-- A write of `mip` reaches the S-level bits where S exists, and none without it. -/
theorem maskedWrite_mipWmask (cfg : Config) (old v : Word) :
    maskedWrite old v (mipWmask cfg) = if cfg.hasS then (old &&& ~~~0x222#64) ||| (v &&& 0x222#64) else old := by
  unfold mipWmask
  cases cfg.hasS
  · exact maskedWrite_zero old v
  · rfl

/-- Settles O29: the delegation masks, `mie` and the views are stored as the model writes them, and the masks of `mie`
and `mip` depend on S. -/
theorem interruptAndDelegationWrites : Obligations.InterruptAndDelegationWrites := by
  unfold Obligations.InterruptAndDelegationWrites
  refine fun s v hf => ⟨fun hdef => ?_, fun hdef => ?_, fun hdef => ?_, fun hdef => ?_, fun hdef => ?_, fun hdef => ?_⟩
  · exact completes_writeCsr_stored (c := .medeleg) (by decide) v hf hdef
  · exact completes_writeCsr_stored (c := .mideleg) (by decide) v hf hdef
  · rw [← mieWmask_eq]
    exact completes_writeCsr_stored (c := .mie) (by decide) v hf hdef
  · rw [← maskedWrite_mipWmask]
    exact completes_writeCsr_stored (c := .mip) (by decide) v hf hdef
  · exact completes_writeCsr_stored (c := .sie) (by decide) v hf hdef
  · exact completes_writeCsr_stored (c := .sip) (by decide) v hf hdef

/-! ### The tables of writes (R216-R219) -/

/-- The rows of a write table are the numbers of its CSRs, each with the storage its write leaves. -/
theorem completes_writeCsr_rows {s : State} (hf : s.hart.fatal = false) (v : Word) {rows : List (BitVec 12 × Csrs)}
    {cs : List Csr} (hcs : cs ⊆ storedCsrs)
    (hrows : rows = cs.map fun c => (c.number, csrStorageWrite s.cfg s.hart.csr v c)) :
    ∀ row ∈ rows, csrDefined s.cfg s.hart.priv row.1 = true →
      Completes (exec (.writeCsr row.1 v) s) s { s.hart with csr := row.2 } .ok 0 0 := by
  subst hrows
  exact List.forall_mem_map.mpr fun c hc hdef => completes_writeCsr_stored (hcs hc) v hf hdef

/-- Settles O31: each row stores the value, or its bits 2:0, in the field of its register. -/
theorem fullWidthAndCounterEnableWrites : Obligations.FullWidthAndCounterEnableWrites := by
  unfold Obligations.FullWidthAndCounterEnableWrites
  exact fun s v hf => completes_writeCsr_rows hf v (cs := [.mscratch, .sscratch, .mcause, .scause, .mtval, .stval,
    .mcycle, .minstret, .mcounteren, .scounteren]) (by decide) rfl

/-- A write of `fflags` keeps `frm` (R218). -/
theorem fcsrOf_frmOf (f : BitVec 8) (v : Word) :
    fcsrOf (frmOf f) (v.extractLsb' 0 5) = (f &&& 0xE0#8) ||| (v.setWidth 8 &&& 0x1F#8) := by
  have hmask : ∀ j < 8, (0xE0#8).getLsbD j = !decide (j < 5) ∧ (0x1F#8).getLsbD j = decide (j < 5) := by decide
  apply BitVec.eq_of_getLsbD_eq
  intro j hj
  obtain ⟨hfrm, hflags⟩ := hmask j hj
  rw [fcsrOf, frmOf, BitVec.getLsbD_append, BitVec.getLsbD_or, BitVec.getLsbD_and, BitVec.getLsbD_and, hfrm, hflags]
  by_cases h5 : j < 5
  · simp [h5, hj]
  · have h3 : j - 5 < 3 := by omega
    have hsum : 5 + (j - 5) = j := by omega
    simp [h5, h3, hsum]

/-- A write of `frm` keeps `fflags` (R218). -/
theorem fcsrOf_fflagsOf (f : BitVec 8) (v : Word) :
    fcsrOf (v.extractLsb' 0 3) (fflagsOf f) = (v.setWidth 8 <<< 5) ||| (f &&& 0x1F#8) := by
  have hmask : ∀ j < 8, (0x1F#8).getLsbD j = decide (j < 5) := by decide
  apply BitVec.eq_of_getLsbD_eq
  intro j hj
  rw [fcsrOf, fflagsOf, BitVec.getLsbD_append, BitVec.getLsbD_or, BitVec.getLsbD_and, hmask j hj,
    BitVec.getLsbD_shiftLeft]
  by_cases h5 : j < 5
  · simp [h5]
  · have h3 : j - 5 < 3 := by omega
    have h8 : j - 5 < 8 := by omega
    simp [h5, hj, h3, h8]

/-- Settles O32: each row takes its bits of the value, and a view keeps the rest of the register behind it. -/
theorem fpAndVectorCsrWrites : Obligations.FpAndVectorCsrWrites := by
  unfold Obligations.FpAndVectorCsrWrites
  intro s v hf
  refine completes_writeCsr_rows hf v (cs := [.fflags, .frm, .fcsr, .vstart, .vxsat, .vxrm, .vcsr]) (by decide) ?_
  rw [← fcsrOf_frmOf, ← fcsrOf_fflagsOf]
  rfl

/-! ### The platform commands (R220, R221) -/

theorem getLsbD_mInterruptMask {j : Nat} (hj : j < 64) :
    mInterruptMask.getLsbD j = decide (j = 3 ∨ j = 7 ∨ j = 11) := by
  revert j
  decide

/-- Settles O33: both commands commit whatever the level and the configuration, and SET_MIP_PLATFORM is a masked write
of the M-level bits. -/
theorem platformCommands : Obligations.PlatformCommands := by
  unfold Obligations.PlatformCommands
  obtain ⟨-, -, -, -, -, -, -, -, -, -, -, -, -, -, -, -, hvconfig, hplatform, -⟩ := opCodeTable
  refine ⟨hvconfig, hplatform, fun s a b hf => ⟨completes_checked hf (completes_commit s _ .ok 0),
    maskedWrite s.hart.csr.mip a mInterruptMask, completes_checked hf (completes_commit s _ .ok 0), fun j hj => ?_⟩⟩
  simp only [getLsbD_maskedWrite, getLsbD_mInterruptMask hj, decide_eq_true_eq]

end Sys2Proof.Machine

/-!
Privilege and trap entry (spec 42_privilege_trap.md R260-R264, R268): how the three commands complete outside the fatal
state, each bit of `mstatus` after a trap, and that every command but those R268 names runs alike at every level.
-/

namespace Sys2Proof.Machine

/-! ### GET_PRIV and SET_PRIV (R260, R261) -/

theorem completes_getPriv {s : State} {p : Priv} (hf : s.hart.fatal = false) (hp : s.hart.priv = p) :
    Completes (exec .getPriv s) s s.hart .ok (p.enc.setWidth 64) 0 :=
  hp ▸ completes_checked hf (completes_reply s .ok _)

theorem completes_setPriv {s : State} {idx : BitVec 12} {p : Priv} (hf : s.hart.fatal = false)
    (hp : levelOf idx = some p) : Completes (exec (.setPriv idx) s) s { s.hart with priv := p } .ok 0 0 :=
  completes_guarded hf hp (completes_commit s _ .ok 0)

/-- Settles O34: GET_PRIV answers the encoding of the level, and SET_PRIV commits the level its operand names. -/
theorem privilegeCommands : Obligations.PrivilegeCommands := by
  unfold Obligations.PrivilegeCommands
  obtain ⟨-, -, -, -, -, -, -, -, -, -, -, -, -, -, -, -, -, -, hget, hset, -⟩ := opCodeTable
  refine ⟨hget, hset, fun s idx hf => ⟨completes_getPriv hf, completes_getPriv hf, completes_getPriv hf, ?_, ?_, ?_,
    fun hout => completes_of_outOfDomain hf hout⟩⟩ <;> rintro rfl
  · exact completes_setPriv (p := .U) hf rfl
  · exact completes_setPriv (p := .S) hf rfl
  · exact completes_setPriv (p := .M) hf rfl

/-! ### `mstatus` after a trap, bit by bit (R263) -/

/-- A 1-bit field replaced is its one bit replaced. -/
theorem getLsbD_setField_bit (v : Word) {lo : Nat} (x : BitVec 1) (hlo : lo < 64) (j : Nat) :
    (setField v lo x).getLsbD j = if j = lo then x.getLsbD 0 else v.getLsbD j := by
  rw [getLsbD_setField v lo x hlo]
  by_cases hj : j = lo
  · rw [if_pos (by omega), if_pos hj, hj, Nat.sub_self]
  · rw [if_neg (by omega), if_neg hj]

/-- A trap to M replaces MPP, MIE and MPIE. -/
theorem getLsbD_mstatusTrapM (m : Word) (cur : Priv) (j : Nat) :
    (mstatusTrapM m cur).getLsbD j =
      if 11 ≤ j ∧ j < 13 then cur.enc.getLsbD (j - 11)
      else if j = 3 then false else if j = 7 then m.getLsbD 3 else m.getLsbD j := by
  rw [mstatusTrapM, getLsbD_setField _ _ _ (by decide), getLsbD_setField_bit _ _ (by decide),
    getLsbD_setField_bit _ _ (by decide), BitVec.getLsbD_extractLsb']
  rfl

/-- A trap to S replaces SPP, SIE and SPIE. -/
theorem getLsbD_mstatusTrapS (m : Word) (cur : Priv) (j : Nat) :
    (mstatusTrapS m cur).getLsbD j =
      if j = 8 then cur != .U else if j = 1 then false else if j = 5 then m.getLsbD 1 else m.getLsbD j := by
  have hspp : (sppOf cur).getLsbD 0 = (cur != .U) := by cases cur <;> rfl
  rw [mstatusTrapS, getLsbD_setField_bit _ _ (by decide), getLsbD_setField_bit _ _ (by decide),
    getLsbD_setField_bit _ _ (by decide), BitVec.getLsbD_extractLsb', hspp]
  rfl

/-! ### INJECT_EXCEPTION (R262-R264) -/

section trap
variable {s : State} {kind : BitVec 6}

theorem completes_injectException {c : ExcCode} (v : Word) (hf : s.hart.fatal = false) (hc : kind.toNat = c.val) :
    Completes (exec (.injectException kind v) s) s (takeException s.cfg s.hart c v) .ok
      ((takeException s.cfg s.hart c v).priv.enc.setWidth 64) 0 :=
  completes_guarded hf (excCode_eq_some.mpr hc) (completes_commit s _ .ok _)

/-- A code up to 15 whose trap goes to M enters it there. -/
theorem completes_injectException_machine (v : Word) (hf : s.hart.fatal = false) (hkind : kind.toNat ≤ 15)
    (hM : ¬ (s.cfg.hasS = true ∧ s.hart.csr.medeleg.getLsbD kind.toNat = true ∧ s.hart.priv ≠ .M)) :
    Completes (exec (.injectException kind v) s) s
      { s.hart with
        csr := { s.hart.csr with
          mepc := s.hart.pc, mcause := kind.setWidth 64, mtval := v
          mstatus := mstatusTrapM s.hart.csr.mstatus s.hart.priv }
        priv := .M
        nextPC := s.hart.csr.mtvec &&& ~~~3#64 } .ok 3 0 := by
  have hdone := completes_injectException (c := ⟨kind.toNat, Nat.lt_succ_of_le hkind⟩) v hf rfl
  rw [takeException, delegatee_eq, if_neg hM] at hdone
  simpa [trapCsrs, trapVector, Priv.enc] using hdone

/-- A code up to 15 whose trap goes to S enters it there. -/
theorem completes_injectException_supervisor (v : Word) (hf : s.hart.fatal = false) (hkind : kind.toNat ≤ 15)
    (hS : s.cfg.hasS = true ∧ s.hart.csr.medeleg.getLsbD kind.toNat = true ∧ s.hart.priv ≠ .M) :
    Completes (exec (.injectException kind v) s) s
      { s.hart with
        csr := { s.hart.csr with
          sepc := s.hart.pc, scause := kind.setWidth 64, stval := v
          mstatus := mstatusTrapS s.hart.csr.mstatus s.hart.priv }
        priv := .S
        nextPC := s.hart.csr.stvec &&& ~~~3#64 } .ok 1 0 := by
  have hdone := completes_injectException (c := ⟨kind.toNat, Nat.lt_succ_of_le hkind⟩) v hf rfl
  rw [takeException, delegatee_eq, if_pos hS] at hdone
  simpa [trapCsrs, trapVector, Priv.enc] using hdone

end trap

/-- Settles O35: `delegatee_eq` decides between the two targets, and the `mstatus` of each is known bit by bit. -/
theorem injectExceptionEntersTheTrap : Obligations.InjectExceptionEntersTheTrap := by
  unfold Obligations.InjectExceptionEntersTheTrap
  obtain ⟨-, -, -, -, -, -, -, -, -, -, -, -, -, -, -, -, -, -, -, -, hinject, -⟩ := opCodeTable
  refine ⟨hinject, fun s kind v hf => ⟨fun hkind hM => ?_, fun hkind hS hdeleg hbelow => ?_,
    fun hout => completes_of_outOfDomain hf hout⟩⟩
  · refine ⟨_, completes_injectException_machine v hf hkind hM, getLsbD_mstatusTrapM _ _ 7, getLsbD_mstatusTrapM _ _ 3,
      mppOf_mstatusTrapM _ _, fun j h3 h7 h11 h12 => ?_⟩
    rw [getLsbD_mstatusTrapM, if_neg (by omega), if_neg h3, if_neg h7]
  · refine ⟨_, completes_injectException_supervisor v hf hkind ⟨hS, hdeleg, hbelow⟩, getLsbD_mstatusTrapS _ _ 5,
      getLsbD_mstatusTrapS _ _ 1, getLsbD_mstatusTrapS _ _ 8, fun j h1 h5 h8 => ?_⟩
    rw [getLsbD_mstatusTrapS, if_neg h8, if_neg h1, if_neg h5]

/-! ### Running at another level (R268, R398) -/

/-- The hart at level `p`, and nothing else changed. -/
def Hart.atLevel (h : Hart) (p : Priv) : Hart :=
  { h with priv := p }

/-- The state with its hart at level `p`, and nothing else changed. -/
def State.atLevel (s : State) (p : Priv) : State :=
  s.setHart (s.hart.atLevel p)

/-- Both outcomes are next states, with the same response and the same hart but for its level. -/
def AlikeButLevel (o o' : Host.Outcome State Fault Refusal) : Prop :=
  ∃ t u, o = .next t ∧ o' = .next u ∧ u.response = t.response ∧ { u.hart with priv := t.hart.priv } = t.hart

section level
variable (s : State) (p : Priv)

theorem alike_reply (st : Status) (rd : Word) : AlikeButLevel (reply s st rd) (reply (s.atLevel p) st rd) :=
  ⟨_, _, rfl, rfl, rfl, rfl⟩

theorem alike_answerWith (st : Status) (rd : Word) (rv : VReg) :
    AlikeButLevel (.next (s.answerWith st rd rv)) (.next ((s.atLevel p).answerWith st rd rv)) :=
  ⟨_, _, rfl, rfl, rfl, rfl⟩

theorem alike_answerOper (op : Operation) :
    AlikeButLevel (.next (s.answerOper op)) (.next ((s.atLevel p).answerOper op)) :=
  ⟨_, _, rfl, rfl, rfl, rfl⟩

/-- Commits of harts that differ in the level `q` alone. -/
theorem alike_commit {h h' : Hart} {q : Priv} (hh : h' = h.atLevel q) (st : Status) (rd : Word) :
    AlikeButLevel (commit s h st rd) (commit (s.atLevel p) h' st rd) :=
  ⟨_, _, rfl, rfl, rfl, by rw [hh]; rfl⟩

variable {s p}

/-- The order of checks reads no level. -/
theorem alike_guarded {α : Type} {o : Option α} {body body' : α → Host.Outcome State Fault Refusal}
    (hbody : ∀ a, AlikeButLevel (body a) (body' a)) :
    AlikeButLevel (guarded s o body) (guarded (s.atLevel p) o body') := by
  rcases guarded_cases s o body with ⟨hf, e⟩ | ⟨hf, rfl, e⟩ | ⟨hf, a, rfl, e⟩ <;> rw [e]
  · rw [guarded_fatal (s := s.atLevel p) hf]
    exact alike_reply s p .fatal 0
  · rw [guarded_none (s := s.atLevel p) hf]
    exact alike_reply s p .badOperand 0
  · rw [guarded_some (s := s.atLevel p) hf]
    exact hbody a

theorem alike_checked {body body' : Host.Outcome State Fault Refusal} (hbody : AlikeButLevel body body') :
    AlikeButLevel (checked s body) (checked (s.atLevel p) body') :=
  alike_guarded fun _ => hbody

/-- Entering the fatal state on a bad PMP index reads no level. -/
theorem alike_fatalIf (bad : Prop) [Decidable bad] {body body' : Host.Outcome State Fault Refusal}
    (hbody : AlikeButLevel body body') :
    AlikeButLevel (if bad then enterFatal s else body) (if bad then enterFatal (s.atLevel p) else body') := by
  split
  · exact alike_commit s p rfl .fatal 0
  · exact hbody

end level

/-! The writes of the hart that are not one record update keep whatever level stands in it. -/

section writes
variable (h : Hart) (p : Priv)

theorem writeX_atLevel (i : RegIndex) (v : Word) : (h.atLevel p).writeX i v = (h.writeX i v).atLevel p := by
  unfold Hart.writeX
  split <;> rfl

theorem writeHost_atLevel (r : HostReg) (v : Word) : (h.atLevel p).writeHost r v = (h.writeHost r v).atLevel p := by
  cases r <;> rfl

theorem writePmpaddr_atLevel (cfg : Config) (i : Nat) (v : Word) :
    (h.atLevel p).writePmpaddr cfg i v = (h.writePmpaddr cfg i v).atLevel p := by
  have hlocked : (h.atLevel p).pmpLocked i = h.pmpLocked i := rfl
  have htor : (h.atLevel p).pmpTorLocked cfg i = h.pmpTorLocked cfg i := rfl
  rw [Hart.writePmpaddr, Hart.writePmpaddr, hlocked, htor]
  split <;> rfl

theorem writePmpcfg_atLevel (n : Nat) (v : Word) :
    (h.atLevel p).writePmpcfg n v = (h.writePmpcfg n v).atLevel p :=
  List.foldl_hom (Hart.atLevel · p) fun _ _ => rfl

end writes

/-- A command other than those R268 names runs alike at every level. -/
theorem exec_alike {i : Instr} (hreadCsr : ∀ id, i ≠ .readCsr id) (hwriteCsr : ∀ id v, i ≠ .writeCsr id v)
    (hdefined : ∀ id, i ≠ .isCsrDefined id) (hgetPriv : i ≠ .getPriv) (hinject : ∀ k v, i ≠ .injectException k v)
    (hcheck : ∀ k a, i ≠ .checkAccess k a) (s : State) (p : Priv) :
    AlikeButLevel (exec i s) (exec i (s.atLevel p)) := by
  cases i with
  | reset => exact alike_commit s p rfl .ok 0
  | readGpr => exact alike_guarded fun _ => alike_reply s p .ok _
  | writeGpr => exact alike_guarded fun _ => alike_commit s p (writeX_atLevel ..) .ok 0
  | readFpr => exact alike_guarded fun _ => alike_reply s p .ok _
  | writeFpr => exact alike_guarded fun _ => alike_commit s p rfl .ok 0
  | readVr => exact alike_guarded fun _ => alike_answerWith s p .ok 0 _
  | writeVr => exact alike_guarded fun _ => alike_commit s p rfl .ok 0
  | readPc => exact alike_checked (alike_reply s p .ok _)
  | writePc => exact alike_checked (alike_commit s p rfl .ok 0)
  | readNextPc => exact alike_checked (alike_reply s p .ok _)
  | writeNextPc => exact alike_checked (alike_commit s p rfl .ok 0)
  | readHost => exact alike_guarded fun r => by cases r <;> exact alike_reply s p .ok _
  | writeHost => exact alike_guarded fun _ => alike_commit s p (writeHost_atLevel ..) .ok 0
  | readCsr id => exact absurd rfl (hreadCsr id)
  | writeCsr id v => exact absurd rfl (hwriteCsr id v)
  | isCsrDefined id => exact absurd rfl (hdefined id)
  | setVconfig => exact alike_checked (alike_commit s p rfl .ok 0)
  | setMipPlatform => exact alike_checked (alike_commit s p rfl .ok 0)
  | getPriv => exact absurd rfl hgetPriv
  | setPriv => exact alike_guarded fun _ => alike_commit s p rfl .ok 0
  | injectException k v => exact absurd rfl (hinject k v)
  | checkAccess k a => exact absurd rfl (hcheck k a)
  | getPmpaddr => exact alike_checked (alike_fatalIf _ (alike_reply s p .ok _))
  | setPmpaddr => exact alike_checked (alike_fatalIf _ (alike_commit s p (writePmpaddr_atLevel ..) .ok 0))
  | setPmpcfg => exact alike_checked (alike_fatalIf _ (alike_commit s p (writePmpcfg_atLevel ..) .ok 0))
  | decode => exact alike_guarded fun _ => alike_answerOper s p _

/-- Settles O40: the run at the other level is the one `exec_alike` compares with. -/
theorem otherCommandsDoNotReadThePrivilege : Obligations.OtherCommandsDoNotReadThePrivilege := by
  unfold Obligations.OtherCommandsDoNotReadThePrivilege
  intro i s t p hreadCsr hwriteCsr hdefined hgetPriv hinject hcheck ht
  obtain ⟨t', u, ht', hu, hresponse, hhart⟩ :=
    exec_alike hreadCsr hwriteCsr hdefined hgetPriv hinject hcheck s p
  obtain rfl : t = t' := Host.Outcome.next.inj (ht.symm.trans ht')
  exact ⟨u, hu, hresponse, hhart⟩

end Sys2Proof.Machine

/-!
The lock of a PMP entry (spec 43_pmp.md R297-R299; 44_decode_lifecycle.md R331): what a locked entry protects is said
once as `KeepsLocks`; every write of the PMP table respects it, and so does the effect of every command but RESET.
-/

namespace Sys2Proof.Machine

/-! ### What the locks protect -/

/-- The locks standing in `h` are respected on the way to `h'`: a locked entry keeps its configuration byte (R297), and
an address locked by its own entry or by the TOR entry above it stays (R298). -/
structure KeepsLocks (cfg : Config) (h h' : Hart) : Prop where
  cfgByte : ∀ i, h.pmpLocked i = true → h'.cfgByte i = h.cfgByte i
  addrField : ∀ i, h.pmpLocked i = true ∨ h.pmpTorLocked cfg i = true → h'.addrField i = h.addrField i

theorem pmpTorLocked_iff {cfg : Config} {h : Hart} {i : Nat} : h.pmpTorLocked cfg i = true ↔
    i + 1 < cfg.pmpCount.toNat ∧ (h.cfgByte (i + 1)).getLsbD 7 = true ∧
      (h.cfgByte (i + 1)).extractLsb' 3 2 = 1#2 := by
  simp [Hart.pmpTorLocked, cfgL, cfgA, and_assoc]

theorem pmpWriteCfg_locked {old : BitVec 8} (hl : cfgL old = true) (b : BitVec 8) : pmpWriteCfg old b = old :=
  if_pos hl

/-- A locked address ignores the write of its register (R298). -/
theorem writePmpaddr_of_locked {cfg : Config} {h : Hart} {i : Nat}
    (hl : h.pmpLocked i = true ∨ h.pmpTorLocked cfg i = true) (v : Word) : h.writePmpaddr cfg i v = h :=
  if_pos (Bool.or_eq_true_iff.mpr hl)

section locks
variable {cfg : Config} {h h' : Hart}

theorem keepsLocks_of_table_eq (hcfg : h'.pmpcfg = h.pmpcfg) (haddr : h'.pmpaddr = h.pmpaddr) :
    KeepsLocks cfg h h' where
  cfgByte i _ := by rw [Hart.cfgByte, Hart.cfgByte, hcfg]
  addrField i _ := by rw [Hart.addrField, Hart.addrField, haddr]

theorem keepsLocks_writePmpcfg (n : Nat) (v : Word) : KeepsLocks cfg h (h.writePmpcfg n v) where
  cfgByte i hl := by
    rw [cfgByte_writePmpcfg, pmpWriteCfg_locked hl, ite_self]
  addrField i _ := addrField_writePmpcfg h n v i

theorem keepsLocks_writePmpaddr (n : Nat) (v : Word) : KeepsLocks cfg h (h.writePmpaddr cfg n v) where
  cfgByte i _ := cfgByte_writePmpaddr cfg h n v i
  addrField i hl := by
    by_cases hi : i = n
    · rw [← hi, writePmpaddr_of_locked hl]
    · rw [addrField_writePmpaddr, if_neg fun hwritten => hi hwritten.1]

theorem keepsLocks_csrWrite (c : Csr) (v : Word) : KeepsLocks cfg h (csrWrite cfg h c v) := by
  unfold csrWrite
  split
  · exact keepsLocks_writePmpcfg _ v
  · exact keepsLocks_writePmpaddr _ v
  · exact keepsLocks_of_table_eq rfl rfl

end locks

/-- The effect of every command but RESET keeps the locks: three commands write the table, the others leave it. -/
theorem Effect.keepsLocks {s : State} {h : Hart} {i : Instr} (he : Effect s h i) (hreset : i ≠ .reset) :
    KeepsLocks s.cfg s.hart h := by
  cases i
  case reset => exact absurd rfl hreset
  case writeCsr =>
    obtain ⟨c, _, _, _, rfl⟩ := he
    exact keepsLocks_csrWrite c _
  case setPmpaddr =>
    rcases he with ⟨_, rfl⟩ | ⟨_, rfl⟩
    · exact keepsLocks_of_table_eq rfl rfl
    · exact keepsLocks_writePmpaddr _ _
  case setPmpcfg =>
    rcases he with ⟨_, rfl⟩ | ⟨_, _, rfl⟩
    · exact keepsLocks_of_table_eq rfl rfl
    · exact keepsLocks_writePmpcfg _ _
  case writeGpr =>
    obtain ⟨a, _, rfl⟩ := he
    exact keepsLocks_of_table_eq (writeX_pmpcfg ..) (writeX_pmpaddr ..)
  case writeHost =>
    obtain ⟨a, _, rfl⟩ := he
    cases a <;> exact keepsLocks_of_table_eq rfl rfl
  case writeFpr | writeVr | setPriv | injectException =>
    obtain ⟨a, _, rfl⟩ := he
    exact keepsLocks_of_table_eq rfl rfl
  case getPmpaddr =>
    obtain ⟨_, rfl⟩ := he
    exact keepsLocks_of_table_eq rfl rfl
  case writePc | writeNextPc | setVconfig | setMipPlatform =>
    rw [he]
    exact keepsLocks_of_table_eq rfl rfl
  case readGpr | readFpr | readVr | readPc | readNextPc | readHost | readCsr | isCsrDefined | getPriv | checkAccess |
      decode =>
    exact he.elim

theorem exec_keepsLocks {i : Instr} {s t : State} (h : exec i s = .next t) (hreset : i ≠ .reset) :
    KeepsLocks s.cfg s.hart t.hart := by
  rcases exec_effect h with hsame | heff
  · rw [hsame]
    exact keepsLocks_of_table_eq rfl rfl
  · exact heff.keepsLocks hreset

theorem step_keepsLocks {s t : State} (h : step s = .next t)
    (hop : ∀ r, s.requests.head? = some r → r.op ≠ 0x01#8) : KeepsLocks s.cfg s.hart t.hart := by
  rcases step_effect h with hsame | ⟨r, rest, i, hr, hd, heff⟩
  · rw [hsame]
    exact keepsLocks_of_table_eq rfl rfl
  · have hhead : s.requests.head? = some r := by rw [hr, List.head?_cons]
    exact heff.keepsLocks (mt (eq_reset_iff_of_decode hd).mp (hop r hhead))

/-- Settles O49: the step keeps the locks, and a locked TOR entry above entry 0 is the one above the entry below it. -/
theorem lockedPmpEntriesStayUntilReset : Obligations.LockedPmpEntriesStayUntilReset := by
  unfold Obligations.LockedPmpEntriesStayUntilReset
  intro s t i hstep hop hi hlocked
  have hkeeps := step_keepsLocks hstep hop
  refine ⟨hkeeps.cfgByte i hlocked, hkeeps.addrField i (.inl hlocked), fun htor hpos => ?_⟩
  obtain ⟨j, rfl⟩ := Nat.exists_eq_add_one.mpr hpos
  exact hkeeps.addrField j (.inr (pmpTorLocked_iff.mpr ⟨hi, hlocked, htor⟩))

/-! ### The configuration byte (R297) -/

/-- What a write makes of an unlocked byte, field by field; it depends on the value written alone. -/
theorem pmpWriteCfg_fields {old : BitVec 8} (hl : cfgL old = false) (b : BitVec 8) :
    (pmpWriteCfg old b).getLsbD 7 = b.getLsbD 7 ∧ (pmpWriteCfg old b).extractLsb' 5 2 = 0#2 ∧
    (pmpWriteCfg old b).extractLsb' 3 2 = b.extractLsb' 3 2 ∧
    (pmpWriteCfg old b).extractLsb' 0 3 =
      if b.getLsbD 1 = true ∧ b.getLsbD 0 = false then 0#3 else b.extractLsb' 0 3 := by
  rw [pmpWriteCfg_unlocked hl]
  revert b
  decide

/-- Settles O46: the locks every command keeps, and the two cases of the byte rule. -/
theorem pmpCfgByteLegalization : Obligations.PmpCfgByteLegalization := by
  unfold Obligations.PmpCfgByteLegalization
  exact ⟨fun _ _ _ k hexec hreset hlocked => (exec_keepsLocks hexec hreset).cfgByte k hlocked,
    fun _ b => ⟨fun hlocked => pmpWriteCfg_locked hlocked b, fun hl => pmpWriteCfg_fields hl b⟩⟩

end Sys2Proof.Machine

/-!
The commands on the PMP registers (spec 43_pmp.md R298-R302): the index is judged first, and past it SET_PMPADDR and
SET_PMPCFG write what the CSR write of the same register writes at M.
-/

namespace Sys2Proof.Machine

/-! ### How the commands complete (R300-R302) -/

section commands
variable {s : State} {idx : BitVec 12}

/-- A PMP index judged bad sets `fatal` alone (R333). -/
theorem completes_badIndex {bad : Prop} [Decidable bad] (hbad : bad) (body : Host.Outcome State Fault Refusal) :
    Completes (if bad then enterFatal s else body) s { s.hart with fatal := true } .fatal 0 0 := by
  rw [if_pos hbad]
  exact completes_commit s _ .fatal 0

theorem completes_getPmpaddr_badIndex (hf : s.hart.fatal = false) (hbad : s.cfg.pmpCount.toNat ≤ idx.toNat) :
    Completes (exec (.getPmpaddr idx) s) s { s.hart with fatal := true } .fatal 0 0 :=
  completes_checked hf (completes_badIndex hbad _)

theorem completes_setPmpaddr_badIndex (v : Word) (hf : s.hart.fatal = false)
    (hbad : s.cfg.pmpCount.toNat ≤ idx.toNat) :
    Completes (exec (.setPmpaddr idx v) s) s { s.hart with fatal := true } .fatal 0 0 :=
  completes_checked hf (completes_badIndex hbad _)

theorem completes_setPmpcfg_badIndex (v : Word) (hf : s.hart.fatal = false)
    (hbad : idx.toNat % 2 = 1 ∨ s.cfg.pmpCount.toNat ≤ 4 * idx.toNat) :
    Completes (exec (.setPmpcfg idx v) s) s { s.hart with fatal := true } .fatal 0 0 :=
  completes_checked hf (completes_badIndex hbad _)

theorem completes_getPmpaddr (hf : s.hart.fatal = false) (hidx : idx.toNat < s.cfg.pmpCount.toNat) :
    Completes (exec (.getPmpaddr idx) s) s s.hart .ok ((s.hart.addrField idx.toNat).setWidth 64) 0 := by
  refine completes_checked hf ?_
  rw [if_neg (Nat.not_le.mpr hidx)]
  exact completes_reply s .ok _

theorem completes_setPmpaddr (v : Word) (hf : s.hart.fatal = false) (hidx : idx.toNat < s.cfg.pmpCount.toNat) :
    Completes (exec (.setPmpaddr idx v) s) s (s.hart.writePmpaddr s.cfg idx.toNat v) .ok 0 0 := by
  refine completes_checked hf ?_
  rw [if_neg (Nat.not_le.mpr hidx)]
  exact completes_commit s _ .ok 0

theorem completes_setPmpcfg (v : Word) (hf : s.hart.fatal = false) (heven : idx.toNat % 2 = 0)
    (hidx : 4 * idx.toNat < s.cfg.pmpCount.toNat) :
    Completes (exec (.setPmpcfg idx v) s) s (s.hart.writePmpcfg idx.toNat v) .ok 0 0 := by
  refine completes_checked hf ?_
  rw [if_neg (by omega)]
  exact completes_commit s _ .ok 0

/-- At M a CSR that exists and is not in the read-only space takes the write. -/
theorem completes_writeCsr_M {c : Csr} (v : Word) (hf : s.hart.fatal = false) (hM : s.hart.priv = .M)
    (hexists : c.existsIn s.cfg = true) (hrw : csrReadOnlySpace c.number = false) :
    Completes (exec (.writeCsr c.number v) s) s (csrWrite s.cfg s.hart c v) .ok 0 0 := by
  refine completes_writeCsr v hf ?_ hrw
  rw [hM]
  exact csrDefined_M s.cfg (csrOfNumber_number c) hexists (Nat.le_of_lt_succ (csrMinPriv c.number).isLt)

theorem completes_writeCsr_pmpaddr {i : Nat} (v : Word) (hf : s.hart.fatal = false) (hM : s.hart.priv = .M)
    (hi : i < s.cfg.pmpCount.toNat) :
    Completes (exec (.writeCsr (BitVec.ofNat 12 (0x3B0 + i)) v) s) s (s.hart.writePmpaddr s.cfg i v) .ok 0 0 := by
  have hrw : ∀ i : Fin 64, csrReadOnlySpace (Csr.pmpaddr i).number = false := by decide
  exact completes_writeCsr_M (c := .pmpaddr ⟨i, hi.trans_le (pmpCount_le _)⟩) v hf hM (decide_eq_true hi) (hrw _)

theorem completes_writeCsr_pmpcfg {n : Nat} (v : Word) (hf : s.hart.fatal = false) (hM : s.hart.priv = .M)
    (heven : n % 2 = 0) (hn : 4 * n < s.cfg.pmpCount.toNat) :
    Completes (exec (.writeCsr (BitVec.ofNat 12 (0x3A0 + n)) v) s) s (s.hart.writePmpcfg n v) .ok 0 0 := by
  have hrw : ∀ n : Fin 16, csrReadOnlySpace (Csr.pmpcfg n).number = false := by decide
  have h16 : n < 16 := by
    have := pmpCount_le s.cfg.pmpCount
    omega
  have hexists : (Csr.pmpcfg ⟨n, h16⟩).existsIn s.cfg = true := by simp [Csr.existsIn, heven, hn]
  exact completes_writeCsr_M (c := .pmpcfg ⟨n, h16⟩) v hf hM hexists (hrw _)

end commands

/-! ### The claims -/

/-- Settles O47: both write commands leave `writePmpaddr`, which a lock turns into no write. -/
theorem pmpAddressCommands : Obligations.PmpAddressCommands := by
  unfold Obligations.PmpAddressCommands
  obtain ⟨-, -, -, -, -, -, -, -, -, -, -, -, -, -, -, -, -, -, -, -, -, -, hget, hset, -⟩ := opCodeTable
  refine ⟨hget, hset, fun s idx v hf => ⟨fun hbad => ?_, fun hidx => ?_⟩⟩
  · exact ⟨completes_getPmpaddr_badIndex hf hbad, completes_setPmpaddr_badIndex v hf hbad⟩
  refine ⟨completes_getPmpaddr hf hidx, s.hart.writePmpaddr s.cfg idx.toNat v, completes_setPmpaddr v hf hidx,
    fun hM => completes_writeCsr_pmpaddr v hf hM hidx, writePmpaddr_eq .., fun hlocked => ?_, fun hfree j => ?_⟩
  · exact writePmpaddr_of_locked (hlocked.imp_right pmpTorLocked_iff.mpr) v
  · rw [← pmpTorLocked_iff, not_or, Bool.not_eq_true, Bool.not_eq_true] at hfree
    obtain ⟨hown, habove⟩ := hfree
    rw [addrField_writePmpaddr]
    exact if_congr (and_iff_left ⟨hidx.trans_le (pmpCount_le _), hown, habove⟩) rfl rfl

/-- Settles O48: both write commands leave `writePmpcfg`, which writes the register's eight entries and no other. -/
theorem pmpConfigurationCommands : Obligations.PmpConfigurationCommands := by
  unfold Obligations.PmpConfigurationCommands
  obtain ⟨-, -, -, -, -, -, -, -, -, -, -, -, -, -, -, -, -, -, -, -, -, -, -, -, hset, -⟩ := opCodeTable
  refine ⟨hset, fun s idx v hf => ⟨completes_setPmpcfg_badIndex v hf, fun heven hidx => ?_⟩⟩
  refine ⟨s.hart.writePmpcfg idx.toNat v, completes_setPmpcfg v hf heven hidx,
    fun hM => completes_writeCsr_pmpcfg v hf hM heven hidx, writePmpcfg_eq .., fun k hk => ?_, fun j hj => ?_⟩
  · have hentries := (pmpcfg_entries_le heven hidx).trans (pmpCount_le _)
    rw [cfgByte_writePmpcfg, if_pos (by omega), Nat.add_sub_cancel_left]
  · rw [cfgByte_writePmpcfg, if_neg (by omega)]

end Sys2Proof.Machine

/-!
The PMP check (spec 43_pmp.md R290-R296, R303): the range of an entry in each mode, the match of an access said of its
bytes, and the first entry that matches, which decides. The laws of the source's tests are read off the three.
-/

namespace Sys2Proof.Machine

/-! ### The NAPOT mask (R291) -/

/-- `n` ones below a zero, and the number after it, differ in those `n + 1` bits. -/
theorem xor_ones_two_pow (n : Nat) : (2 ^ n - 1) ^^^ 2 ^ n = 2 ^ (n + 1) - 1 := by
  refine Nat.eq_of_testBit_eq fun j => ?_
  rw [Nat.testBit_xor, Nat.testBit_two_pow_sub_one, Nat.testBit_two_pow, Nat.testBit_two_pow_sub_one]
  by_cases hj : j < n
  · simp [hj, Nat.ne_of_gt hj, Nat.lt_succ_of_lt hj]
  · by_cases hn : n = j
    · simp [hn]
    · have hlt : ¬ j < n + 1 := by omega
      simp [hj, hn, hlt]

/-- A number and its successor differ in the trailing ones and the zero above them. -/
theorem xor_succ_of_trailingOnes {x n : Nat} (hx : x % 2 ^ (n + 1) = 2 ^ n - 1) : x ^^^ (x + 1) = 2 ^ (n + 1) - 1 := by
  have hlt : 2 ^ n < 2 ^ (n + 1) := Nat.pow_lt_pow_succ (by decide)
  have hsucc : x + 1 = 2 ^ n + 2 ^ (n + 1) * (x / 2 ^ (n + 1)) := by
    have hsplit := Nat.mod_add_div x (2 ^ (n + 1))
    have hpos := Nat.two_pow_pos n
    omega
  have hmod : (x + 1) % 2 ^ (n + 1) = 2 ^ n := by
    rw [hsucc, Nat.add_mul_mod_self_left, Nat.mod_eq_of_lt hlt]
  have hdiv : (x + 1) / 2 ^ (n + 1) = x / 2 ^ (n + 1) := by
    rw [hsucc, Nat.add_mul_div_left _ _ (Nat.two_pow_pos _), Nat.div_eq_of_lt hlt, Nat.zero_add]
  calc x ^^^ (x + 1)
      = 2 ^ (n + 1) * ((x ^^^ (x + 1)) / 2 ^ (n + 1)) + (x ^^^ (x + 1)) % 2 ^ (n + 1) := (Nat.div_add_mod _ _).symm
    _ = (2 ^ n - 1) ^^^ 2 ^ n := by
        rw [Nat.xor_div_two_pow, Nat.xor_mod_two_pow, hdiv, hmod, hx, Nat.xor_self, Nat.mul_zero, Nat.zero_add]
    _ = 2 ^ (n + 1) - 1 := xor_ones_two_pow n

/-- A 54-bit field has at most 54 trailing ones. -/
theorem trailingOnes_le {f : BitVec 54} {n : Nat} (hf : f.toNat % 2 ^ (n + 1) = 2 ^ n - 1) : n ≤ 54 := by
  have hle : 2 ^ n - 1 ≤ f.toNat := hf ▸ Nat.mod_le _ _
  have hlt : 2 ^ n ≤ 2 ^ 54 := by
    have := f.isLt
    omega
  exact (Nat.pow_le_pow_iff_right (by decide)).mp hlt

/-- The NAPOT mask of a field with `n` trailing ones is the low `n + 1` bits. -/
theorem toNat_napotMask {f : BitVec 54} {n : Nat} (hf : f.toNat % 2 ^ (n + 1) = 2 ^ n - 1) :
    (f.setWidth 64 ^^^ (f.setWidth 64 + 1)).toNat = 2 ^ (n + 1) - 1 := by
  have hfield := f.isLt
  have hwide : (f.setWidth 64 : Word).toNat = f.toNat := BitVec.toNat_setWidth_of_le (by decide)
  have hsucc : ((f.setWidth 64 : Word) + 1).toNat = f.toNat + 1 := by
    have hone : (1 : Word).toNat = 1 := rfl
    rw [BitVec.toNat_add, hwide, hone]
    omega
  rw [BitVec.toNat_xor, hwide, hsucc, xor_succ_of_trailingOnes hf]

/-- A value without its low `k` bits. -/
theorem toNat_clearLow (x : Word) {m : Word} {k : Nat} (hm : m.toNat = 2 ^ k - 1) :
    (x &&& ~~~m).toNat = x.toNat / 2 ^ k * 2 ^ k := by
  have hshift : x &&& ~~~m = x >>> k <<< k := by
    refine BitVec.eq_of_getLsbD_eq fun j hj => ?_
    have hbit : m[j] = decide (j < k) := by
      rw [← BitVec.getLsbD_eq_getElem, BitVec.getLsbD, hm, Nat.testBit_two_pow_sub_one]
    by_cases hk : j < k
    · simp [hbit, hj, hk]
    · simp [hbit, hj, hk, Nat.add_sub_of_le (Nat.not_lt.mp hk)]
  have hlt : x.toNat / 2 ^ k * 2 ^ k < 2 ^ 64 := (Nat.div_mul_le_self _ _).trans_lt x.isLt
  rw [hshift, BitVec.toNat_shiftLeft, BitVec.toNat_ushiftRight, Nat.shiftRight_eq_div_pow, Nat.shiftLeft_eq,
    Nat.mod_eq_of_lt hlt]

/-! ### The range of an entry, by mode (R291) -/

section range
variable {h : Hart} {i : Nat}

theorem pmpRange_off (hA : (h.cfgByte i).extractLsb' 3 2 = 0#2) : pmpRange h i = none := by
  have hmode : pmpModeOf (h.cfgByte i) = .off := by simp [pmpModeOf, cfgA, hA]
  simp [pmpRange, hmode]

theorem pmpRange_tor (hA : (h.cfgByte i).extractLsb' 3 2 = 1#2) :
    pmpRange h i = some (if i = 0 then 0 else (h.addrField (i - 1)).toNat * 4, (h.addrField i).toNat * 4) := by
  have hmode : pmpModeOf (h.cfgByte i) = .tor := by simp [pmpModeOf, cfgA, hA]
  simp only [pmpRange, hmode, BitVec.toNat_setWidth_of_le (show 54 ≤ 64 by decide)]

theorem pmpRange_na4 (hA : (h.cfgByte i).extractLsb' 3 2 = 2#2) :
    pmpRange h i = some ((h.addrField i).toNat * 4, (h.addrField i).toNat * 4 + 4) := by
  have hmode : pmpModeOf (h.cfgByte i) = .na4 := by simp [pmpModeOf, cfgA, hA]
  simp only [pmpRange, hmode, BitVec.toNat_setWidth_of_le (show 54 ≤ 64 by decide)]

theorem pmpRange_napot (hA : (h.cfgByte i).extractLsb' 3 2 = 3#2) {n : Nat}
    (hn : (h.addrField i).toNat % 2 ^ (n + 1) = 2 ^ n - 1) :
    pmpRange h i = some ((h.addrField i).toNat / 2 ^ (n + 1) * 2 ^ (n + 3),
      (h.addrField i).toNat / 2 ^ (n + 1) * 2 ^ (n + 3) + 2 ^ (n + 3)) := by
  have hmode : pmpModeOf (h.cfgByte i) = .napot := by simp [pmpModeOf, cfgA, hA]
  have hmask := toNat_napotMask hn
  have hbytes : 2 ^ (n + 3) = 2 ^ (n + 1) * 4 := by rw [Nat.pow_add 2 (n + 1) 2]
  simp only [pmpRange, hmode, toNat_clearLow _ hmask, hmask, BitVec.toNat_setWidth_of_le (show 54 ≤ 64 by decide),
    Nat.sub_add_cancel (Nat.two_pow_pos (n + 1)), hbytes, Nat.mul_assoc]

end range

/-- Settles O41: the range of each mode in turn. -/
theorem pmpRangeByMode : Obligations.PmpRangeByMode := by
  unfold Obligations.PmpRangeByMode
  exact fun _ _ => ⟨pmpRange_off, pmpRange_tor, pmpRange_na4, fun hA _ hn => pmpRange_napot hA hn⟩

/-! ### The match of an access (R292) -/

section classify
variable {lo hi a w : Nat}

theorem classify_eq_noMatch_iff : classify lo hi a w = .noMatch ↔ hi ≤ lo ∨ a + w ≤ lo ∨ hi ≤ a := by
  unfold classify
  split
  · simp [*]
  · split
    · simp [*]
    · split <;> simp [*]

theorem classify_eq_fullMatch_iff (hw : 0 < w) : classify lo hi a w = .fullMatch ↔ lo ≤ a ∧ a + w ≤ hi := by
  unfold classify
  split
  · simp
    omega
  · split
    · simp
      omega
    · split <;> simp [*]

/-- No match is that no byte of the access lies in the range: the greater of the two starts is in both, or they are
apart. -/
theorem classify_eq_noMatch_iff_bytes (hw : 0 < w) :
    classify lo hi a w = .noMatch ↔ ∀ b, a ≤ b → b < a + w → ¬ (lo ≤ b ∧ b < hi) := by
  rw [classify_eq_noMatch_iff]
  constructor
  · omega
  · intro hbytes
    have hstart := hbytes (max a lo) (le_max_left a lo)
    omega

/-- A match is that every byte of the access lies in the range: its first and its last decide. -/
theorem classify_eq_fullMatch_iff_bytes (hw : 0 < w) :
    classify lo hi a w = .fullMatch ↔ ∀ b, a ≤ b → b < a + w → lo ≤ b ∧ b < hi := by
  rw [classify_eq_fullMatch_iff hw]
  constructor
  · omega
  · intro hbytes
    have hfirst := hbytes a le_rfl (by omega)
    have hlast := hbytes (a + w - 1) (by omega) (by omega)
    omega

end classify

/-- An outcome is a partial match exactly when it is neither of the others. -/
theorem eq_partialMatch_iff {m : PmpMatch} : m = .partialMatch ↔ m ≠ .noMatch ∧ m ≠ .fullMatch := by
  cases m <;> decide

theorem addrMatch_of_range_none {h : Hart} {i : Nat} (hr : pmpRange h i = none) (a w : Nat) :
    addrMatch h i a w = .noMatch := by
  simp [addrMatch, hr]

theorem addrMatch_of_range {h : Hart} {i lo hi : Nat} (hr : pmpRange h i = some (lo, hi)) (a w : Nat) :
    addrMatch h i a w = classify lo hi a w := by
  simp [addrMatch, hr]

/-- Settles O42: no match and a match by the bytes, and a partial match as neither. -/
theorem pmpMatchIsByBytes : Obligations.PmpMatchIsByBytes := by
  unfold Obligations.PmpMatchIsByBytes
  refine fun h i a w hw => ⟨fun hr => addrMatch_of_range_none hr a w, fun lo hi hr => ?_⟩
  rw [addrMatch_of_range hr]
  refine ⟨classify_eq_noMatch_iff_bytes hw, classify_eq_fullMatch_iff_bytes hw, ?_⟩
  rw [eq_partialMatch_iff, Ne, Ne, classify_eq_noMatch_iff_bytes hw, classify_eq_fullMatch_iff_bytes hw]
  simp only [not_forall, not_not, exists_prop]

/-! ### The entry that decides (R293, R294) -/

/-- Entries that do not match are passed over. -/
theorem pmpScan_append_of_noMatch {h : Hart} {a w : Nat} {k : AccessKind} {p : Priv} {is : List Nat}
    (hno : ∀ i ∈ is, addrMatch h i a w = .noMatch) (js : List Nat) :
    pmpScan h a w k p (is ++ js) = pmpScan h a w k p js := by
  induction is with
  | nil => rfl
  | cons i is ih =>
    obtain ⟨hi, his⟩ := List.forall_mem_cons.mp hno
    have hcontinue : entryResult h i a w k p = .continue := by simp [entryResult, hi]
    rw [List.cons_append, pmpScan, hcontinue]
    exact ih his

section check
variable {cfg : Config} {h : Hart} {i a w : Nat} {k : AccessKind} {p : Priv}

/-- Where no lower entry matches, the check is the scan from the entry on. -/
theorem exists_pmpCheck_eq_pmpScan (hi : i < cfg.pmpCount.toNat) (hno : ∀ j < i, addrMatch h j a w = .noMatch) :
    ∃ js, pmpCheck cfg h a w k p = pmpScan h a w k p (i :: js) := by
  obtain ⟨m, hm⟩ := Nat.exists_eq_add_of_lt hi
  refine ⟨(List.range m).map fun j => i + (j + 1), ?_⟩
  have hrange : List.range cfg.pmpCount.toNat = List.range i ++ i :: (List.range m).map fun j => i + (j + 1) := by
    rw [hm, Nat.add_assoc, List.range_add, List.range_succ_eq_map]
    simp
  rw [pmpCheck, if_neg (Nat.ne_zero_of_lt hi), hrange,
    pmpScan_append_of_noMatch fun j hj => hno j (List.mem_range.mp hj)]

theorem pmpCheck_of_partialMatch (hi : i < cfg.pmpCount.toNat) (hno : ∀ j < i, addrMatch h j a w = .noMatch)
    (hmatch : addrMatch h i a w = .partialMatch) : pmpCheck cfg h a w k p = some (accessFault k) := by
  obtain ⟨js, hscan⟩ := exists_pmpCheck_eq_pmpScan hi hno
  have hfail : entryResult h i a w k p = .fail := by simp [entryResult, hmatch]
  rw [hscan, pmpScan, hfail]

theorem pmpCheck_of_fullMatch (hi : i < cfg.pmpCount.toNat) (hno : ∀ j < i, addrMatch h j a w = .noMatch)
    (hmatch : addrMatch h i a w = .fullMatch) :
    pmpCheck cfg h a w k p =
      if pmpPerm (h.cfgByte i) k = true ∨ (p = .M ∧ (h.cfgByte i).getLsbD 7 = false) then none
      else some (accessFault k) := by
  obtain ⟨js, hscan⟩ := exists_pmpCheck_eq_pmpScan (k := k) (p := p) hi hno
  have hentry : entryResult h i a w k p =
      if pmpPerm (h.cfgByte i) k = true ∨ (p = .M ∧ (h.cfgByte i).getLsbD 7 = false) then .success else .fail := by
    simp [entryResult, hmatch, cfgL]
  rw [hscan, pmpScan]
  by_cases hallowed : pmpPerm (h.cfgByte i) k = true ∨ (p = .M ∧ (h.cfgByte i).getLsbD 7 = false)
  · rw [hentry, if_pos hallowed, if_pos hallowed]
  · rw [hentry, if_neg hallowed, if_neg hallowed]

end check

/-! ### CHECK_ACCESS (R290, R295, R296) -/

/-- The access kinds 0, 1 and 2, each with its permission bit and the answer of its fault (R293, R295). -/
def KindRow (kind : BitVec 6) (permBit : Nat) (fault : Word) : Prop :=
  (kind.toNat = 0 ∧ permBit = 0 ∧ fault = 0x45#64) ∨ (kind.toNat = 1 ∧ permBit = 1 ∧ fault = 0x47#64) ∨
    (kind.toNat = 2 ∧ permBit = 2 ∧ fault = 0x41#64)

theorem KindRow.exists_accessKind {kind : BitVec 6} {permBit : Nat} {fault : Word} (hrow : KindRow kind permBit fault) :
    ∃ k, accessKindOf kind = some k ∧ (∀ b, pmpPerm b k = b.getLsbD permBit) ∧
      checkResult (some (accessFault k)) = fault := by
  rcases hrow with ⟨hk, rfl, rfl⟩ | ⟨hk, rfl, rfl⟩ | ⟨hk, rfl, rfl⟩
  · exact ⟨.read, by simp [accessKindOf, hk], fun _ => rfl, by decide⟩
  · exact ⟨.write, by simp [accessKindOf, hk], fun _ => rfl, by decide⟩
  · exact ⟨.exec, by simp [accessKindOf, hk], fun _ => rfl, by decide⟩

/-- The answer of a check that a condition decides. -/
theorem checkResult_ite (allowed : Prop) [Decidable allowed] (c : ExcCode) :
    checkResult (if allowed then none else some c) = if allowed then 0 else checkResult (some c) :=
  apply_ite checkResult allowed none (some c)

section checkAccess
variable {s : State} {kind : BitVec 6} {permBit : Nat} {fault a : Word} {i : Nat}

theorem completes_checkAccess_of_noEntries (hf : s.hart.fatal = false) (hrow : KindRow kind permBit fault)
    (hzero : s.cfg.pmpCount.toNat = 0) : Completes (exec (.checkAccess kind a) s) s s.hart .ok 0 0 := by
  obtain ⟨k, hk, -, -⟩ := hrow.exists_accessKind
  have hdone := completes_checkAccess a hf hk
  rwa [pmpCheck, if_pos hzero] at hdone

theorem completes_checkAccess_of_noMatch (hf : s.hart.fatal = false) (hrow : KindRow kind permBit fault)
    (hcount : 0 < s.cfg.pmpCount.toNat)
    (hno : ∀ i < s.cfg.pmpCount.toNat, addrMatch s.hart i a.toNat 8 = .noMatch) :
    Completes (exec (.checkAccess kind a) s) s s.hart .ok (if s.hart.priv = .M then 0 else fault) 0 := by
  obtain ⟨k, hk, -, hfault⟩ := hrow.exists_accessKind
  have hdone := completes_checkAccess a hf hk
  rwa [pmpCheck_of_noMatch hcount hno, checkResult_ite, hfault] at hdone

theorem completes_checkAccess_of_partialMatch (hf : s.hart.fatal = false) (hrow : KindRow kind permBit fault)
    (hi : i < s.cfg.pmpCount.toNat) (hno : ∀ j < i, addrMatch s.hart j a.toNat 8 = .noMatch)
    (hmatch : addrMatch s.hart i a.toNat 8 = .partialMatch) :
    Completes (exec (.checkAccess kind a) s) s s.hart .ok fault 0 := by
  obtain ⟨k, hk, -, hfault⟩ := hrow.exists_accessKind
  have hdone := completes_checkAccess a hf hk
  rwa [pmpCheck_of_partialMatch hi hno hmatch, hfault] at hdone

theorem completes_checkAccess_of_fullMatch (hf : s.hart.fatal = false) (hrow : KindRow kind permBit fault)
    (hi : i < s.cfg.pmpCount.toNat) (hno : ∀ j < i, addrMatch s.hart j a.toNat 8 = .noMatch)
    (hmatch : addrMatch s.hart i a.toNat 8 = .fullMatch) :
    Completes (exec (.checkAccess kind a) s) s s.hart .ok
      (if (s.hart.cfgByte i).getLsbD permBit = true ∨
        (s.hart.priv = .M ∧ (s.hart.cfgByte i).getLsbD 7 = false) then 0 else fault) 0 := by
  obtain ⟨k, hk, hperm, hfault⟩ := hrow.exists_accessKind
  have hdone := completes_checkAccess a hf hk
  rwa [pmpCheck_of_fullMatch hi hno hmatch, checkResult_ite, hfault, hperm] at hdone

end checkAccess

/-- Settles O43: past the checks the answer is the PMP's, by the first entry that matches or by the default. -/
theorem checkAccessFirstMatchDecides : Obligations.CheckAccessFirstMatchDecides := by
  unfold Obligations.CheckAccessFirstMatchDecides
  obtain ⟨-, -, -, -, -, -, -, -, -, -, -, -, -, -, -, -, -, -, -, -, -, hcheck, -⟩ := opCodeTable
  refine ⟨hcheck, fun s kind a hf => ⟨fun hkind => ?_, fun permBit fault hrow => ?_⟩⟩
  · exact completes_of_outOfDomain hf hkind
  · exact ⟨completes_checkAccess_of_noEntries hf hrow, completes_checkAccess_of_noMatch hf hrow, fun i hi hno =>
      ⟨completes_checkAccess_of_partialMatch hf hrow hi hno, completes_checkAccess_of_fullMatch hf hrow hi hno⟩⟩

/-! ### The laws of the source's tests (R303) -/

theorem addrMatch_of_off {h : Hart} {i : Nat} (hA : (h.cfgByte i).extractLsb' 3 2 = 0#2) (a w : Nat) :
    addrMatch h i a w = .noMatch :=
  addrMatch_of_range_none (pmpRange_off hA) a w

section laws
variable {s : State} {a : Word}

/-- With every entry OFF the default denies the access below M. -/
theorem completes_checkAccess_of_allOff {kind : BitVec 6} {permBit : Nat} {fault : Word} (hf : s.hart.fatal = false)
    (hM : s.hart.priv ≠ .M) (hcount : 0 < s.cfg.pmpCount.toNat)
    (hoff : ∀ i, i < s.cfg.pmpCount.toNat → (s.hart.cfgByte i).extractLsb' 3 2 = 0#2)
    (hrow : KindRow kind permBit fault) : Completes (exec (.checkAccess kind a) s) s s.hart .ok fault 0 := by
  have hdone := completes_checkAccess_of_noMatch (a := a) hf hrow hcount fun i hi => addrMatch_of_off (hoff i hi) _ _
  rwa [if_neg hM] at hdone

/-- With one entry active, TOR and readable, a read below M is permitted exactly on a match with it. -/
theorem completes_read_of_oneTorEntry {e base top : Nat} (hf : s.hart.fatal = false) (hM : s.hart.priv ≠ .M)
    (he : e < s.cfg.pmpCount.toNat)
    (hoff : ∀ i, i < s.cfg.pmpCount.toNat → i ≠ e → (s.hart.cfgByte i).extractLsb' 3 2 = 0#2)
    (hread : (s.hart.cfgByte e).getLsbD 0 = true) (hrange : pmpRange s.hart e = some (base, top)) :
    Completes (exec (.checkAccess 0 a) s) s s.hart .ok
      (if base ≤ a.toNat ∧ a.toNat + 8 ≤ top then 0 else 0x45) 0 := by
  have hrow : KindRow 0 0 0x45 := .inl ⟨rfl, rfl, rfl⟩
  have hother : ∀ i < s.cfg.pmpCount.toNat, i ≠ e → addrMatch s.hart i a.toNat 8 = .noMatch :=
    fun i hi hne => addrMatch_of_off (hoff i hi hne) _ _
  have hbelow : ∀ j < e, addrMatch s.hart j a.toNat 8 = .noMatch :=
    fun j hj => hother j (hj.trans he) (Nat.ne_of_lt hj)
  have hfull : addrMatch s.hart e a.toNat 8 = .fullMatch ↔ base ≤ a.toNat ∧ a.toNat + 8 ≤ top := by
    rw [addrMatch_of_range hrange]
    exact classify_eq_fullMatch_iff (by decide)
  cases hmatch : addrMatch s.hart e a.toNat 8 with
  | noMatch =>
    have hno : ∀ i < s.cfg.pmpCount.toNat, addrMatch s.hart i a.toNat 8 = .noMatch := by
      intro i hi
      by_cases hie : i = e
      · rw [hie, hmatch]
      · exact hother i hi hie
    have hdone := completes_checkAccess_of_noMatch hf hrow (Nat.zero_lt_of_lt he) hno
    rw [if_neg (mt hfull.mpr (by simp [hmatch]))]
    rwa [if_neg hM] at hdone
  | partialMatch =>
    rw [if_neg (mt hfull.mpr (by simp [hmatch]))]
    exact completes_checkAccess_of_partialMatch hf hrow he hbelow hmatch
  | fullMatch =>
    have hdone := completes_checkAccess_of_fullMatch hf hrow he hbelow hmatch
    rw [if_pos (hfull.mp hmatch)]
    rwa [if_pos (.inl hread)] at hdone

end laws

/-- Settles O44: OFF entries match nothing, so the default or the one TOR entry decides. -/
theorem pmpLawsOfTheSource : Obligations.PmpLawsOfTheSource := by
  unfold Obligations.PmpLawsOfTheSource
  refine ⟨fun s kind a hf hcount hkind hoff => ⟨fun hM => ?_, fun hM hk => ?_, fun hM hk => ?_, fun hM hk => ?_⟩,
    fun s a e hf hM he hoff htor hread base top hbase htop => ?_⟩
  · obtain ⟨k, hk⟩ := exists_accessKindOf hkind
    have hdone := completes_checkAccess a hf hk
    rwa [hM, pmpCheck_M_of_noMatch fun i hi => addrMatch_of_off (hoff i hi) _ _] at hdone
  · exact completes_checkAccess_of_allOff hf hM hcount hoff (.inl ⟨congrArg _ hk, rfl, rfl⟩)
  · exact completes_checkAccess_of_allOff hf hM hcount hoff (.inr (.inl ⟨congrArg _ hk, rfl, rfl⟩))
  · exact completes_checkAccess_of_allOff hf hM hcount hoff (.inr (.inr ⟨congrArg _ hk, rfl, rfl⟩))
  · refine completes_read_of_oneTorEntry hf hM he hoff hread ?_
    rw [hbase, htop]
    exact pmpRange_tor htor

end Sys2Proof.Machine

/-!
Decode and lifecycle (spec 44_decode_lifecycle.md R330, R331, R333): DECODE answers the engine alone; RESET leaves the
newly built hart, which is legal; and the fatal state is entered by a bad PMP index alone and left by RESET alone.
-/

namespace Sys2Proof.Machine

/-! ### The fatal state (R333) -/

/-- The command names a PMP register whose index R300-R302 put out of range under the configuration. -/
inductive BadPmpIndex (cfg : Config) : Instr → Prop
  | getPmpaddr {idx : BitVec 12} (hbad : cfg.pmpCount.toNat ≤ idx.toNat) : BadPmpIndex cfg (.getPmpaddr idx)
  | setPmpaddr {idx : BitVec 12} {v : Word} (hbad : cfg.pmpCount.toNat ≤ idx.toNat) :
      BadPmpIndex cfg (.setPmpaddr idx v)
  | setPmpcfg {idx : BitVec 12} {v : Word} (hbad : idx.toNat % 2 = 1 ∨ cfg.pmpCount.toNat ≤ 4 * idx.toNat) :
      BadPmpIndex cfg (.setPmpcfg idx v)

@[simp] theorem writePmpaddr_fatal (cfg : Config) (h : Hart) (i : Nat) (v : Word) :
    (h.writePmpaddr cfg i v).fatal = h.fatal := by
  rw [writePmpaddr_eq]

@[simp] theorem writePmpcfg_fatal (h : Hart) (n : Nat) (v : Word) : (h.writePmpcfg n v).fatal = h.fatal := by
  rw [writePmpcfg_eq]

/-- Only a bad PMP index enters the fatal state: `fatal` has three writers, and past its index check each keeps it. -/
theorem badPmpIndex_of_exec {i : Instr} {s t : State} (h : exec i s = .next t) (hs : s.hart.fatal = false)
    (ht : t.hart.fatal = true) : BadPmpIndex s.cfg i := by
  have hne : t.hart.fatal ≠ s.hart.fatal := by simp [hs, ht]
  have heff : Effect s t.hart i := (exec_effect h).resolve_left fun hsame => hne (congrArg Hart.fatal hsame)
  have hreset : i ≠ .reset := by
    rintro rfl
    have hh : t.hart = Hart.constructed := heff
    simp [hh, Hart.constructed] at ht
  obtain ⟨-, -, -, -, -, -, -, -, hwriter⟩ := hartFieldsHaveOnlyTheirWriters i s t h hreset
  obtain ⟨-, ⟨idx, rfl⟩ | ⟨idx, v, rfl⟩ | ⟨idx, v, rfl⟩⟩ := hwriter hne
  · obtain ⟨hbad, -⟩ := heff
    exact .getPmpaddr hbad
  · rcases heff with ⟨hbad, -⟩ | ⟨-, hh⟩
    · exact .setPmpaddr hbad
    · exact absurd (by rw [hh, writePmpaddr_fatal]) hne
  · rcases heff with ⟨hbad, -⟩ | ⟨-, -, hh⟩
    · exact .setPmpcfg hbad
    · exact absurd (by rw [hh, writePmpcfg_fatal]) hne

/-- The step that enters the fatal state performs a command with a bad PMP index. -/
theorem badPmpIndex_of_step {s t : State} (h : step s = .next t) (hs : s.hart.fatal = false)
    (ht : t.hart.fatal = true) :
    ∃ r rest i, s.requests = r :: rest ∧ Sys2Proof.decode r = .ok i ∧ BadPmpIndex s.cfg i := by
  rcases step_cases h with ⟨-, rfl⟩ | ⟨r, rest, i, hr, hd, hexec⟩ | ⟨_, _, _, _, _, hreject⟩
  · exact absurd ht (by simp [hs])
  · exact ⟨r, rest, i, hr, hd, badPmpIndex_of_exec (s := { s with requests := rest }) hexec hs ht⟩
  · rw [answerReject_next hreject] at ht
    exact absurd ht (by simp [hs])

/-- The request of a command with a bad PMP index, by its op code and its `idx`. -/
theorem BadPmpIndex.request {cfg : Config} {r : Request} {i : Instr} (hbad : BadPmpIndex cfg i)
    (hd : Sys2Proof.decode r = .ok i) :
    (r.op ∈ [0x31#8, 0x32#8] ∧ cfg.pmpCount.toNat ≤ r.idx.toNat) ∨
      (r.op = 0x33#8 ∧ (r.idx.toNat % 2 = 1 ∨ cfg.pmpCount.toNat ≤ 4 * r.idx.toNat)) := by
  obtain ⟨-, -, -, -, -, -, -, -, -, -, -, -, -, -, -, -, -, -, -, -, -, -, hget, hsetAddr, hsetCfg, -⟩ :=
    opCodeTable
  have hcode := op_of_decode hd
  cases hbad with
  | getPmpaddr hbad =>
    have hop : r.op = 0x31#8 := BitVec.eq_of_toNat_eq hcode
    cases hd.symm.trans (hget r hop)
    exact .inl ⟨by simp [hop], hbad⟩
  | setPmpaddr hbad =>
    have hop : r.op = 0x32#8 := BitVec.eq_of_toNat_eq hcode
    cases hd.symm.trans (hsetAddr r hop)
    exact .inl ⟨by simp [hop], hbad⟩
  | setPmpcfg hbad =>
    have hop : r.op = 0x33#8 := BitVec.eq_of_toNat_eq hcode
    cases hd.symm.trans (hsetCfg r hop)
    exact .inr ⟨hop, hbad⟩

/-- RESET completes from every state, the fatal one included. -/
theorem completes_reset (s : State) : Completes (exec .reset s) s Hart.constructed .ok 0 0 :=
  completes_commit s _ .ok 0

/-- Settles O3: the index check enters the fatal state, the fatal check answers all that follows, and RESET is not
judged by it. -/
theorem fatalStateAbsorbsUntilReset : Obligations.FatalStateAbsorbsUntilReset := by
  unfold Obligations.FatalStateAbsorbsUntilReset
  obtain ⟨hreset, -⟩ := opCodeTable
  refine ⟨fun s idx v hf hbad => ?_, fun s idx v hf hbad => ?_, fun s r rest hf hs hop => ?_,
    fun s r rest hs hop => ?_⟩
  · exact ⟨completes_getPmpaddr_badIndex hf hbad, completes_setPmpaddr_badIndex v hf hbad⟩
  · exact completes_setPmpcfg_badIndex v hf hbad
  · rw [step_of_fatal hf hs hop]
    exact completes_reply { s with requests := rest } .fatal 0
  · rw [step_cons_ok hs (hreset r hop)]
    exact ⟨_, completes_reset _, rfl⟩

/-- Settles O56: the step that enters the fatal state performs a command with a bad index, which its request names. -/
theorem onlyABadPmpIndexIsUnsafe : Obligations.OnlyABadPmpIndexIsUnsafe := by
  unfold Obligations.OnlyABadPmpIndexIsUnsafe
  intro s t hs hstep ht
  obtain ⟨r, rest, i, hr, hd, hbad⟩ := badPmpIndex_of_step hstep hs (Bool.eq_true_of_not_eq_false ht)
  exact ⟨r, rest, hr, hbad.request hd⟩

/-! ### RESET (R331) -/

@[simp] theorem readX_constructed (i : RegIndex) : Hart.constructed.readX i = 0 := by
  simp [Hart.readX, Hart.constructed]

@[simp] theorem readF_constructed (i : RegIndex) : Hart.constructed.readF i = 0 := by
  simp [Hart.readF, Hart.constructed]

/-- Settles O1: RESET leaves the newly built hart, whose register files and PMP table read 0 everywhere. -/
theorem resetZeroesTheHart : Obligations.ResetZeroesTheHart := by
  unfold Obligations.ResetZeroesTheHart
  obtain ⟨hreset, -⟩ := opCodeTable
  refine ⟨hreset, fun s => ⟨Hart.constructed, completes_reset s, rfl, rfl, readX_constructed, readF_constructed,
    readV_constructed, rfl, fun i => ?_, rfl, rfl, rfl, rfl, rfl⟩⟩
  exact ⟨cfgByte_constructed i, addrField_constructed i⟩

/-- Every legal VLEN is positive (R6). -/
theorem vlen_pos_of_legal {cfg : Config} (h : cfg.legal = true) : 0 < cfg.vlen := by
  have hpos : ∀ n ∈ legalVlens, 0 < n := by decide
  simp only [Config.legal, Bool.and_eq_true, List.contains_iff_mem] at h
  exact hpos _ (by simp only [h])

/-- A newly built block of a legal configuration meets the invariant. -/
theorem inv_construct {cfg : Config} (h : cfg.legal = true) : Inv (State.construct cfg) :=
  inv_iff.mpr ⟨h, hartLegal_constructed (vlen_pos_of_legal h)⟩

/-- Settles O55: the newly built hart is legal under every legal configuration, TESTCFG among them. -/
theorem invariantHoldsAtReset : Obligations.InvariantHoldsAtReset := by
  unfold Obligations.InvariantHoldsAtReset
  have htest : testcfg.legal = true := by decide
  exact ⟨fun _ => inv_construct, inv_construct htest⟩

/-! ### DECODE (R330) -/

/-- The engine's illegal variant carries the word it was given. -/
theorem eq_of_decodeFn_eq_illegal {w b : BitVec 32} (h : decodeFn w = .illegal b) : b = w := by
  unfold decodeFn at h
  split at h
  · exact (Operation.illegal.inj h).symm
  · cases h

/-- A 32-bit word on the 64-bit port is the word DECODE takes. -/
theorem instrWord_setWidth (w : BitVec 32) : instrWord (w.setWidth 64) = some w := by
  have hlt : (w.setWidth 64).toNat < 2 ^ 32 := by
    rw [BitVec.toNat_setWidth_of_le (by decide)]
    exact w.isLt
  rw [instrWord, if_pos hlt, BitVec.setWidth_setWidth_of_le w (by decide), BitVec.setWidth_eq]

theorem exec_decode {s : State} (hf : s.hart.fatal = false) (w : BitVec 32) :
    exec (.decode (w.setWidth 64)) s = .next (s.answerOper (decodeFn w)) := by
  rw [exec, execDecode, instrWord_setWidth, guarded_some hf]

/-- Settles O50: past the checks DECODE puts the engine's result on the port, and a wider value is out of domain. -/
theorem decodeAnswersTheEngine : Obligations.DecodeAnswersTheEngine := by
  unfold Obligations.DecodeAnswersTheEngine
  obtain ⟨-, -, -, -, -, -, -, -, -, -, -, -, -, -, -, -, -, -, -, -, -, -, -, -, -, hdecode, -⟩ := opCodeTable
  refine ⟨hdecode, fun s w hf => ⟨⟨_, exec_decode hf w, rfl, rfl, rfl, rfl, fun _ => eq_of_decodeFn_eq_illegal⟩,
    fun v hwide => completes_of_outOfDomain hf hwide⟩⟩

end Sys2Proof.Machine

/-!
What issuing a command gives, whatever the command: the outcome `exec` names, the same configuration, and a hart that is
not fatal unless a PMP index was bad. The engine's sequences are read through these and through the completions above.
-/

namespace Sys2Proof.Machine

/-! ### Issuing a command that completes -/

theorem issue_of_completes {i : Instr} {s : State} {h : Hart} {st : Status} {rd : Word} {rv : VReg}
    (hdone : Completes (exec i s) s h st rd rv) : (issue i s).hart = h ∧ (issue i s).cfg = s.cfg := by
  obtain ⟨t, _, hexec, hcfg, hhart, -⟩ := hdone
  rw [issue, hexec]
  exact ⟨hhart, hcfg⟩

/-- No command stops: its outcome is the state that issuing it takes. -/
theorem exec_eq_issue (i : Instr) (s : State) : exec i s = .next (issue i s) := by
  obtain ⟨_, _, _, _, t, _, hexec, -⟩ := (exec_wholeOrNothing i s).exists_completes
  rw [issue, hexec]

theorem issue_cfg (i : Instr) (s : State) : (issue i s).cfg = s.cfg := by
  obtain ⟨_, _, _, _, hdone⟩ := (exec_wholeOrNothing i s).exists_completes
  exact (issue_of_completes hdone).2

theorem injectException_hart {s : State} {kind : BitVec 6} {v : Word} {c : ExcCode} (hf : s.hart.fatal = false)
    (hc : excCode kind = some c) : (issue (.injectException kind v) s).hart = takeException s.cfg s.hart c v :=
  raiseCode_hart hf hc

theorem issue_fatal {i : Instr} {s : State} (hf : s.hart.fatal = false) (hgood : ¬ BadPmpIndex s.cfg i) :
    (issue i s).hart.fatal = false :=
  Bool.eq_false_iff.mpr fun hfatal => hgood (badPmpIndex_of_exec (exec_eq_issue i s) hf hfatal)

end Sys2Proof.Machine

/-!
The engine's returns from a trap (spec 45_client_sequences.md R355, R356; 42_privilege_trap.md R263): what trap entry
saves in `mstatus` and in the exception PC, the return reads back, so the two together are one update of the hart that
leaves the level, the interrupt enable and the register files as they were.
-/

namespace Sys2Proof.Machine

/-! ### `mstatus` through a return, bit by bit -/

/-- Below bit 32 and outside MPP, what reads is what is stored under `MSTATUS_RW` (R33). -/
theorem getLsbD_mstatusRead_low (cfg : Config) (m : Word) {j : Nat} (hj : j < 32) (h11 : j ≠ 11) (h12 : j ≠ 12) :
    (mstatusRead cfg m).getLsbD j = (rwBit cfg j && m.getLsbD j) := by
  have hmpp : ¬ (j = 11 ∨ j = 12) := by omega
  have h33 : j ≠ 33 := by omega
  have h35 : j ≠ 35 := by omega
  have h63 : j ≠ 63 := by omega
  rw [mstatusReadValue cfg m j (by omega), if_neg hmpp, if_neg h33, if_neg h35, if_neg h63]

theorem getLsbD_mstatusRead_stored {cfg : Config} {j : Nat} (m : Word) (hj : j < 32) (h11 : j ≠ 11) (h12 : j ≠ 12)
    (hrw : rwBit cfg j = true) : (mstatusRead cfg m).getLsbD j = m.getLsbD j := by
  rw [getLsbD_mstatusRead_low cfg m hj h11 h12, hrw, Bool.true_and]

/-- A bit outside MPP that software may write is stored as written. -/
theorem getLsbD_mstatusWrite_stored {cfg : Config} {j : Nat} (m v : Word) (hj : j < 64) (h11 : j ≠ 11) (h12 : j ≠ 12)
    (hrw : rwBit cfg j = true) : (mstatusWrite cfg m v).getLsbD j = v.getLsbD j := by
  rw [getLsbD_mstatusWrite cfg m v hj h11 h12, hrw, if_pos rfl]

theorem mppOf_mstatusRead (cfg : Config) (m : Word) :
    mppOf (mstatusRead cfg m) = if cfg.hasU then mppOf m else 3#2 := by
  have h11 := mstatusReadValue cfg m 11 (by decide)
  have h12 := mstatusReadValue cfg m 12 (by decide)
  cases hU : cfg.hasU
  · refine mppOf_congr (b := 0x1800#64) ?_ ?_
    · simpa [hU] using h11
    · simpa [hU] using h12
  · refine mppOf_congr ?_ ?_
    · simpa [hU] using h11
    · simpa [hU] using h12

/-- What MRET writes back below MPP: MPIE set, MIE from MPIE. -/
theorem getLsbD_mretStatus (cfg : Config) (m : Word) {j : Nat} (hj : j < 11) :
    (mretStatus cfg m).getLsbD j = if j = 7 then true else if j = 3 then m.getLsbD 7 else m.getLsbD j := by
  rw [mretStatus, getLsbD_setField_bit _ _ (by decide), if_neg (by omega), getLsbD_setField _ _ _ (by decide),
    if_neg (by omega), getLsbD_setField_bit _ _ (by decide), getLsbD_setField_bit _ _ (by decide),
    BitVec.getLsbD_extractLsb']
  rfl

theorem mpp_mretStatus (cfg : Config) (m : Word) :
    (mretStatus cfg m).extractLsb' 11 2 = if cfg.hasU then 0#2 else 3#2 := by
  rw [mretStatus, extractLsb'_setField_outside _ _ _ (by decide) (by decide), extractLsb'_setField _ _ _ (by decide)]

/-- What SRET writes back, MPRV aside: SPP clear, SPIE set, SIE from SPIE. -/
theorem getLsbD_sretStatus (m : Word) {j : Nat} (h17 : j ≠ 17) :
    (sretStatus m).getLsbD j =
      if j = 8 then false else if j = 5 then true else if j = 1 then m.getLsbD 5 else m.getLsbD j := by
  rw [sretStatus, getLsbD_setField_bit _ _ (by decide), if_neg h17, getLsbD_setField_bit _ _ (by decide),
    getLsbD_setField_bit _ _ (by decide), getLsbD_setField_bit _ _ (by decide), BitVec.getLsbD_extractLsb']
  rfl

/-- What MRET leaves in the storage of `mstatus` (R355). -/
def mretStorage (cfg : Config) (m : Word) : Word :=
  mstatusWrite cfg m (mretStatus cfg (mstatusRead cfg m))

/-- What SRET leaves in the storage of `mstatus` (R356). -/
def sretStorage (cfg : Config) (m : Word) : Word :=
  mstatusWrite cfg m (sretStatus (mstatusRead cfg m))

theorem mie_mretStorage (cfg : Config) (m : Word) : (mretStorage cfg m).getLsbD 3 = m.getLsbD 7 := by
  rw [mretStorage, getLsbD_mstatusWrite_stored _ _ (by decide) (by decide) (by decide) rfl,
    getLsbD_mretStatus _ _ (by decide)]
  exact getLsbD_mstatusRead_stored m (by decide) (by decide) (by decide) rfl

theorem mpie_mretStorage (cfg : Config) (m : Word) : (mretStorage cfg m).getLsbD 7 = true := by
  rw [mretStorage, getLsbD_mstatusWrite_stored _ _ (by decide) (by decide) (by decide) rfl,
    getLsbD_mretStatus _ _ (by decide)]
  rfl

/-- The least level of the configuration is one that MPP may be written to. -/
theorem mpp_mretStorage (cfg : Config) (m : Word) :
    (mretStorage cfg m).extractLsb' 11 2 = if cfg.hasU then 0#2 else 3#2 := by
  rw [mretStorage, mpp_mstatusWrite, mpp_mretStatus]
  cases cfg.hasU <;> simp

section supervisor
variable {cfg : Config} (m : Word) (hS : cfg.hasS = true)
include hS

theorem sie_sretStorage : (sretStorage cfg m).getLsbD 1 = m.getLsbD 5 := by
  rw [sretStorage, getLsbD_mstatusWrite_stored _ _ (by decide) (by decide) (by decide) (by simp [rwBit, hS]),
    getLsbD_sretStatus _ (by decide)]
  exact getLsbD_mstatusRead_stored m (by decide) (by decide) (by decide) (by simp [rwBit, hS])

theorem spie_sretStorage : (sretStorage cfg m).getLsbD 5 = true := by
  rw [sretStorage, getLsbD_mstatusWrite_stored _ _ (by decide) (by decide) (by decide) (by simp [rwBit, hS]),
    getLsbD_sretStatus _ (by decide)]
  rfl

theorem spp_sretStorage : (sretStorage cfg m).getLsbD 8 = false := by
  rw [sretStorage, getLsbD_mstatusWrite_stored _ _ (by decide) (by decide) (by decide) (by simp [rwBit, hS]),
    getLsbD_sretStatus _ (by decide)]
  rfl

end supervisor

/-! ### Trap and return as one update of the hart -/

/-- Only M is a level without U, in a legal configuration (R6). -/
theorem priv_eq_M_of_not_hasU {s : State} (hlegal : s.cfg.legal = true) (hlevel : LevelExists s)
    (hU : s.cfg.hasU = false) : s.hart.priv = .M := by
  have hS : s.cfg.hasS = false := by
    simp only [Config.legal, hU, Bool.and_eq_true, Bool.or_false, Bool.not_eq_true'] at hlegal
    simp only [hlegal]
  obtain ⟨hsup, huser⟩ := hlevel
  cases hp : s.hart.priv with
  | U => simpa [hU] using huser hp
  | S => simpa [hS] using hsup hp
  | M => rfl

/-- The MPP that a trap to M saves reads back as the level of the trap. -/
theorem levelOf_mpp_of_trapM {s : State} (hlegal : s.cfg.legal = true) (hlevel : LevelExists s) :
    levelOf ((mppOf (mstatusRead s.cfg (mstatusTrapM s.hart.csr.mstatus s.hart.priv))).setWidth 12) =
      some s.hart.priv := by
  rw [mppOf_mstatusRead, mppOf_mstatusTrapM]
  cases hU : s.cfg.hasU
  · rw [priv_eq_M_of_not_hasU hlegal hlevel hU]
    rfl
  · cases s.hart.priv <;> rfl

/-- The SPP that a trap to S saves reads back as the level of the trap, which is below M. -/
theorem level_of_spp_of_trapS {cfg : Config} (m : Word) (hS : cfg.hasS = true) {cur : Priv} (hbelow : cur ≠ .M) :
    (if (mstatusRead cfg (mstatusTrapS m cur)).getLsbD 8 then Priv.S else .U) = cur := by
  rw [getLsbD_mstatusRead_stored _ (by decide) (by decide) (by decide) (by simp [rwBit, hS]), getLsbD_mstatusTrapS,
    if_pos rfl]
  cases cur with
  | U => rfl
  | S => rfl
  | M => exact absurd rfl hbelow

/-- A trap to S keeps TSR. -/
theorem tsr_of_trapS {cfg : Config} (m : Word) (cur : Priv) (hS : cfg.hasS = true) :
    (mstatusRead cfg (mstatusTrapS m cur)).getLsbD 22 = m.getLsbD 22 := by
  rw [getLsbD_mstatusRead_stored _ (by decide) (by decide) (by decide) (by simp [rwBit, hS])]
  exact getLsbD_mstatusTrapS m cur 22

/-- A trap to M and MRET after it: the level and `pc` of before, `nextPC` the masked `pc`, and the M-level trap
registers as the trap left them. -/
theorem mret_of_trap_hart {s : State} {kind : BitVec 6} (v : Word) (w : BitVec 32) (hf : s.hart.fatal = false)
    (hlegal : s.cfg.legal = true) (hlevel : LevelExists s) (hkind : kind.toNat ≤ 15)
    (hM : ¬ (s.cfg.hasS = true ∧ s.hart.csr.medeleg.getLsbD kind.toNat = true ∧ s.hart.priv ≠ .M)) :
    (mret w (issue (.injectException kind v) s)).hart =
      { s.hart with
        csr := { s.hart.csr with
          mepc := s.hart.pc, mcause := kind.setWidth 64, mtval := v
          mstatus := mretStorage s.cfg (mstatusTrapM s.hart.csr.mstatus s.hart.priv) }
        nextPC := s.hart.pc &&& epcMask s.cfg } := by
  obtain ⟨htrap, hcfg⟩ := issue_of_completes (completes_injectException_machine v hf hkind hM)
  have hmpp := levelOf_mpp_of_trapM hlegal hlevel
  rw [mret_hart w (p := s.hart.priv) (by rw [htrap]; exact hf) (by rw [htrap]) (by rw [htrap, hcfg]; exact hmpp),
    htrap, hcfg]
  rfl

/-- A trap to S and SRET after it with TSR = 0: the level and `pc` of before, `nextPC` the masked `pc`, and the S-level
trap registers as the trap left them. -/
theorem sret_of_trap_hart {s : State} {kind : BitVec 6} (v : Word) (w : BitVec 32) (hf : s.hart.fatal = false)
    (hkind : kind.toNat ≤ 15) (hS : s.cfg.hasS = true) (hdeleg : s.hart.csr.medeleg.getLsbD kind.toNat = true)
    (hbelow : s.hart.priv ≠ .M) (htsr : s.hart.csr.mstatus.getLsbD 22 = false) :
    (sret w (issue (.injectException kind v) s)).hart =
      { s.hart with
        csr := { s.hart.csr with
          sepc := s.hart.pc, scause := kind.setWidth 64, stval := v
          mstatus := sretStorage s.cfg (mstatusTrapS s.hart.csr.mstatus s.hart.priv) }
        nextPC := s.hart.pc &&& epcMask s.cfg } := by
  obtain ⟨htrap, hcfg⟩ := issue_of_completes (completes_injectException_supervisor v hf hkind ⟨hS, hdeleg, hbelow⟩)
  have htsr' := (tsr_of_trapS s.hart.csr.mstatus s.hart.priv hS).trans htsr
  rw [sret_hart w (by rw [htrap]; exact hf) (by rw [htrap]) (by rw [hcfg]; exact hS)
    (by rw [htrap, hcfg]; exact htsr'), htrap, hcfg]
  simp only [level_of_spp_of_trapS s.hart.csr.mstatus hS hbelow]
  rfl

/-! ### The claims -/

/-- Settles O51: MRET reads back MPIE, where the trap saved MIE, MPP, where it saved the level, and `mepc`. -/
theorem trapThenMretRestores : Obligations.TrapThenMretRestores := by
  unfold Obligations.TrapThenMretRestores
  intro s kind v w hf hlegal hlevel hkind hM u
  have hu := mret_of_trap_hart v w hf hlegal hlevel hkind hM
  rw [← epcMask_eq, hu]
  refine ⟨rfl, ?_, mpie_mretStorage _ _, mpp_mretStorage _ _, rfl, rfl, rfl, rfl, rfl, rfl, rfl⟩
  exact (mie_mretStorage _ _).trans (getLsbD_mstatusTrapM _ _ 7)

/-- Settles O52: SRET reads back SPIE, where the trap saved SIE, SPP, where it saved the level, and `sepc`. -/
theorem trapThenSretRestores : Obligations.TrapThenSretRestores := by
  unfold Obligations.TrapThenSretRestores
  intro s kind v w hf hkind hS hdeleg hbelow htsr u
  have hu := sret_of_trap_hart v w hf hkind hS hdeleg hbelow htsr
  rw [← epcMask_eq, hu]
  refine ⟨rfl, ?_, spie_sretStorage _ hS, spp_sretStorage _ hS, rfl, rfl, rfl, rfl, rfl, rfl, rfl⟩
  exact (sie_sretStorage _ hS).trans (getLsbD_mstatusTrapS _ _ 5)

end Sys2Proof.Machine

/-!
FS and VS as the engine uses them (spec 45_client_sequences.md R357, R359, R363; 10_state.md R32, R33): the two fields
of `mstatus` that follow a unit, what dirtying one of them stores and what `mstatus` reads afterwards, the gate in front
of an FP or vector instruction, and one write behind it.
-/

namespace Sys2Proof.Machine

/-! ### `mstatus` written back as it reads, with bits set -/

/-- The storage of `mstatus` after what it reads is written back with `bits` set. -/
def orStorage (cfg : Config) (m bits : Word) : Word :=
  mstatusWrite cfg m (mstatusRead cfg m ||| bits)

/-- Bits 11 and 12 are those of MPP. -/
theorem getLsbD_eq_mppOf (v : Word) {j : Nat} (hj : j = 11 ∨ j = 12) : v.getLsbD j = (mppOf v).getLsbD (j - 11) := by
  rcases hj with rfl | rfl <;> simp [mppOf]

/-- MPP reads as before: what it read was legal, or is not stored. -/
theorem mppOf_mstatusRead_orStorage (cfg : Config) (m : Word) {bits : Word} (h11 : bits.getLsbD 11 = false)
    (h12 : bits.getLsbD 12 = false) : mppOf (mstatusRead cfg (orStorage cfg m bits)) = mppOf (mstatusRead cfg m) := by
  have hkept : mppOf (mstatusRead cfg m ||| bits) = mppOf (mstatusRead cfg m) :=
    mppOf_congr (by rw [BitVec.getLsbD_or, h11, Bool.or_false]) (by rw [BitVec.getLsbD_or, h12, Bool.or_false])
  rw [mppOf_mstatusRead, orStorage, mstatusWrite, mppOf_setField, hkept, mppOf_mstatusRead]
  cases cfg.hasU
  · rfl
  · simp

/-- Every bit below SD reads as before, or set if it is one of `bits` that software may write. -/
theorem getLsbD_mstatusRead_orStorage (cfg : Config) (m : Word) {bits : Word} (h11 : bits.getLsbD 11 = false)
    (h12 : bits.getLsbD 12 = false) {j : Nat} (hj : j < 63) :
    (mstatusRead cfg (orStorage cfg m bits)).getLsbD j =
      ((mstatusRead cfg m).getLsbD j || (rwBit cfg j && bits.getLsbD j)) := by
  by_cases hmpp : j = 11 ∨ j = 12
  · have hbits : bits.getLsbD j = false := by rcases hmpp with rfl | rfl <;> assumption
    rw [getLsbD_eq_mppOf _ hmpp, mppOf_mstatusRead_orStorage cfg m h11 h12, ← getLsbD_eq_mppOf _ hmpp, hbits,
      Bool.and_false, Bool.or_false]
  · have hread := fun m => mstatusReadValue cfg m j (by omega)
    have hsd : j ≠ 63 := by omega
    simp only [hmpp, hsd, if_false] at hread
    have hwrite := getLsbD_mstatusWrite cfg m (mstatusRead cfg m ||| bits) (j := j) (by omega) (by omega) (by omega)
    rw [hread, orStorage, hwrite, BitVec.getLsbD_or, hread]
    by_cases h33 : j = 33
    · simp [h33, rwBit]
    · by_cases h35 : j = 35
      · simp [h35, rwBit]
      · simp only [h33, h35, if_false]
        cases rwBit cfg j <;> simp

/-- SD summarizes FS and VS as they read (R33). -/
theorem sd_mstatusRead (cfg : Config) (m : Word) : (mstatusRead cfg m).getLsbD 63 = sdOf (mstatusRead cfg m) := by
  rw [sdOf_eq]
  iterate 5 rw [mstatusReadValue cfg m _ (by decide)]
  cases hF : cfg.hasF <;> cases hV : cfg.hasV <;> simp [rwBit, hF, hV]

/-! ### The two unit fields -/

/-- `UnitField cfg k on`: the two bits from `k` up are the `mstatus` field of a unit, which the configuration has or not
as `on` says: FS of the FP unit, VS of the vector unit (R32). -/
inductive UnitField (cfg : Config) : Nat → Bool → Prop
  | fs : UnitField cfg 13 cfg.hasF
  | vs : UnitField cfg 9 cfg.hasV

section field
variable {cfg : Config} {k : Nat} {on : Bool} (hk : UnitField cfg k on) (m : Word)
include hk

theorem UnitField.rwBit {j : Nat} (hj : j = k ∨ j = k + 1) : rwBit cfg j = on := by
  cases hk <;> rcases hj with rfl | rfl <;> simp [Machine.rwBit]

/-- The bits that dirtying sets are the field's two. -/
theorem UnitField.getLsbD_bits {j : Nat} (hj : j < 64) : (3#64 <<< k).getLsbD j = decide (j = k ∨ j = k + 1) := by
  cases hk <;> revert j <;> decide

/-- A unit's field lies below bit 32 and apart from MPP. -/
theorem UnitField.place {j : Nat} (hj : j = k ∨ j = k + 1) : j < 32 ∧ j ≠ 11 ∧ j ≠ 12 := by
  cases hk <;> omega

/-- A unit's field reads as it is stored, and 0 without the unit. -/
theorem UnitField.read : (mstatusRead cfg m).extractLsb' k 2 = if on then m.extractLsb' k 2 else 0#2 := by
  have hbit : ∀ j, j = k ∨ j = k + 1 → (mstatusRead cfg m).getLsbD j = (on && m.getLsbD j) := by
    intro j hj
    obtain ⟨hlt, h11, h12⟩ := hk.place hj
    rw [getLsbD_mstatusRead_low cfg m hlt h11 h12, hk.rwBit hj]
  apply BitVec.eq_of_getLsbD_eq
  intro i hi
  rw [BitVec.getLsbD_extractLsb', hbit (k + i) (by omega)]
  cases on <;> simp [hi]

/-- Dirtying stores 3 where the unit exists. -/
theorem UnitField.stored (hon : on = true) : (orStorage cfg m (3#64 <<< k)).extractLsb' k 2 = 3#2 := by
  have hbit : ∀ j, j = k ∨ j = k + 1 → (orStorage cfg m (3#64 <<< k)).getLsbD j = true := by
    intro j hj
    obtain ⟨hlt, h11, h12⟩ := hk.place hj
    rw [orStorage, getLsbD_mstatusWrite_stored _ _ (by omega) h11 h12 ((hk.rwBit hj).trans hon), BitVec.getLsbD_or,
      hk.getLsbD_bits (by omega), decide_eq_true hj, Bool.or_true]
  rw [← beq_iff_eq, extract_two_eq_three, hbit k (.inl rfl), hbit (k + 1) (.inr rfl), Bool.and_self]

/-- Dirtying changes no bit below SD but, where the unit exists, the field's two. -/
theorem UnitField.getLsbD_read_stored {j : Nat} (hj : j < 63) (hkeep : on = false ∨ ¬ (j = k ∨ j = k + 1)) :
    (mstatusRead cfg (orStorage cfg m (3#64 <<< k))).getLsbD j = (mstatusRead cfg m).getLsbD j := by
  have hmpp : ∀ i ∈ [11, 12], (3#64 <<< k).getLsbD i = false := by cases hk <;> decide
  rw [getLsbD_mstatusRead_orStorage cfg m (hmpp 11 (by decide)) (hmpp 12 (by decide)) hj, hk.getLsbD_bits (by omega)]
  by_cases hfield : j = k ∨ j = k + 1
  · rw [hk.rwBit hfield, hkeep.resolve_right (not_not.mpr hfield), Bool.false_and, Bool.or_false]
  · rw [decide_eq_false hfield, Bool.and_false, Bool.or_false]

/-- Where the unit exists, the dirtied field reads 3, and so SD reads 1. -/
theorem UnitField.read_stored (hon : on = true) :
    (mstatusRead cfg (orStorage cfg m (3#64 <<< k))).extractLsb' k 2 = 3#2 ∧
    (mstatusRead cfg (orStorage cfg m (3#64 <<< k))).getLsbD 63 = true := by
  have hfield : (mstatusRead cfg (orStorage cfg m (3#64 <<< k))).extractLsb' k 2 = 3#2 := by
    rw [hk.read, if_pos hon, hk.stored m hon]
  refine ⟨hfield, ?_⟩
  rw [sd_mstatusRead, sdOf, Bool.or_eq_true, beq_iff_eq, beq_iff_eq]
  cases hk with
  | fs => exact .inl hfield
  | vs => exact .inr hfield

/-- Without the unit, `mstatus` reads as before. -/
theorem UnitField.read_stored_off (hoff : on = false) :
    mstatusRead cfg (orStorage cfg m (3#64 <<< k)) = mstatusRead cfg m := by
  have hbelow := fun j (hj : j < 63) => hk.getLsbD_read_stored m hj (.inl hoff)
  apply BitVec.eq_of_getLsbD_eq
  intro j hj
  by_cases hsd : j = 63
  · rw [hsd, sd_mstatusRead, sd_mstatusRead, sdOf_eq, sdOf_eq]
    iterate 4 rw [hbelow _ (by decide)]
  · exact hbelow j (by omega)

end field

/-! ### Dirtying FS and VS (R357, R359) -/

section dirtying
variable {s : State} {k : Nat} {on : Bool} (hf : s.hart.fatal = false)
include hf

/-- Setting bits of `mstatus` in the bracket changes its storage and nothing else. -/
theorem orMstatusAsM_frame (bits : Word) :
    (orMstatusAsM bits s).hart =
      { s.hart with csr := { s.hart.csr with mstatus := (orMstatusAsM bits s).hart.csr.mstatus } } := by
  rw [(orMstatusAsM_hart bits hf).1]

theorem orMstatusAsM_mstatus (bits : Word) :
    (orMstatusAsM bits s).hart.csr.mstatus = orStorage s.cfg s.hart.csr.mstatus bits := by
  rw [(orMstatusAsM_hart bits hf).1]
  rfl

/-- What dirtying a unit's field leaves. -/
theorem UnitField.dirtying (hk : UnitField s.cfg k on) :
    let u := orMstatusAsM (3#64 <<< k) s
    let m := mstatusRead s.cfg s.hart.csr.mstatus
    let m' := mstatusRead u.cfg u.hart.csr.mstatus
    u.cfg = s.cfg ∧ u.hart = { s.hart with csr := { s.hart.csr with mstatus := u.hart.csr.mstatus } } ∧
    (if on then m'.extractLsb' k 2 = 3#2 ∧ m'.getLsbD 63 = true else m' = m) ∧
    ∀ j, j ≠ k → j ≠ k + 1 → j ≠ 63 → m'.getLsbD j = m.getLsbD j := by
  intro u m m'
  have hcfg : u.cfg = s.cfg := (orMstatusAsM_hart _ hf).2
  have hm' : m' = mstatusRead s.cfg (orStorage s.cfg s.hart.csr.mstatus (3#64 <<< k)) :=
    congrArg₂ mstatusRead hcfg (orMstatusAsM_mstatus hf _)
  refine ⟨hcfg, orMstatusAsM_frame hf _, ?_, fun j h0 h1 hsd => ?_⟩
  · rw [hm']
    cases hon : on
    · exact hk.read_stored_off _ hon
    · exact hk.read_stored _ hon
  · rw [hm']
    by_cases hj : j < 63
    · exact hk.getLsbD_read_stored _ hj (.inr (by omega))
    · rw [BitVec.getLsbD_of_ge _ _ (by omega), BitVec.getLsbD_of_ge _ _ (by omega)]

end dirtying

/-- Settles O57: FS and VS are the two unit fields. -/
theorem dirtyingSetsOneFieldOfMstatus : Obligations.DirtyingSetsOneFieldOfMstatus := by
  unfold Obligations.DirtyingSetsOneFieldOfMstatus
  intro s hf
  rw [List.forall_mem_cons, List.forall_mem_singleton]
  exact ⟨UnitField.fs.dirtying hf, UnitField.vs.dirtying hf⟩

/-! ### One write of an instruction that computes (R357, R363) -/

/-- The command of a write completes alike whatever stands on the port. -/
theorem completes_command (e : EngineWrite) {s : State} (hf : s.hart.fatal = false) :
    ∃ h st, ∀ requests response n,
      let t : State := { s with requests := requests, response := response, freeIndex := n }
      Completes (exec e.command t) t h st 0 0 := by
  have hidx : ∀ r : BitVec 5, (r.setWidth 12).toNat = r.toFin.val := fun r => BitVec.toNat_setWidth_of_le (by decide)
  cases e with
  | gpr r v => exact ⟨s.hart.writeX r.toFin v, .ok, fun _ _ _ => completes_writeGpr v hf (hidx r)⟩
  | fpr r v => exact ⟨s.hart.writeF r.toFin v, .ok, fun _ _ _ => completes_writeFpr v hf (hidx r)⟩
  | vr r v => exact ⟨s.hart.writeV s.cfg r.toFin v, .ok, fun _ _ _ => completes_writeVr v hf (hidx r)⟩
  | csr id v =>
    cases hdef : csrDefined s.cfg s.hart.priv id
    · exact ⟨s.hart, .csrUndefined, fun _ _ _ => completes_writeCsr_undefined v hf hdef⟩
    · obtain ⟨c, rfl⟩ := exists_csr_of_defined hdef
      cases hro : csrReadOnlySpace c.number
      · exact ⟨csrWrite s.cfg s.hart c v, .ok, fun _ _ _ => completes_writeCsr v hf hdef hro⟩
      · exact ⟨s.hart, .csrReadOnly, fun _ _ _ => completes_writeCsr_readOnly v hf hdef hro⟩
  | vconfig vl vtype =>
    exact ⟨{ s.hart with csr := { s.hart.csr with vl := vl, vtype := vtype } }, .ok,
      fun _ _ _ => completes_checked hf (completes_commit _ _ .ok 0)⟩

/-- The command of a write leaves the hart that the hart and configuration before it decide. -/
theorem issue_command_hart (e : EngineWrite) {s t : State} (hf : s.hart.fatal = false) (hh : t.hart = s.hart)
    (hc : t.cfg = s.cfg) : (issue e.command t).hart = (issue e.command s).hart := by
  obtain ⟨h, st, hdone⟩ := completes_command e hf
  have ht := hdone t.requests t.response t.freeIndex
  rw [← hh, ← hc] at ht
  have hs := hdone s.requests s.response s.freeIndex
  exact (issue_of_completes ht).1.trans (issue_of_completes hs).1.symm

/-- No write is one of both units. -/
theorem dirtiesVs_of_dirtiesFs {e : EngineWrite} (hfs : e.dirtiesFs = true) : e.dirtiesVs = false := by
  cases e with
  | gpr | vr | vconfig => cases hfs
  | fpr => rfl
  | csr c =>
    simp only [EngineWrite.dirtiesFs, isFpCsr, Bool.or_eq_true, beq_iff_eq] at hfs
    rcases hfs with (rfl | rfl) | rfl <;> rfl

/-! ### The gate on the units (R357) -/

/-- Where no access counts, the acts that count are writes. -/
theorem any_write_iff {acts : List EngineAct} {p : EngineAct → Bool} (haccess : ∀ d, p (.access d) = false) :
    acts.any p = true ↔ ∃ e, EngineAct.write e ∈ acts ∧ p (.write e) = true := by
  rw [List.any_eq_true]
  constructor
  · rintro ⟨act, hmem, hp⟩
    cases act with
    | access d => exact absurd hp (by simp [haccess])
    | write e => exact ⟨e, hmem, hp⟩
  · rintro ⟨e, hmem, hp⟩
    exact ⟨.write e, hmem, hp⟩

/-- The engine's gate is the condition of R357. -/
theorem off_andOf_iff {s : State} {u : UnitUse} {acts : List EngineAct} :
    (u.andOf acts).off (mstatusRead s.cfg s.hart.csr.mstatus) = true ↔ UnitOff s u acts := by
  have hfp := any_write_iff (acts := acts) (p := EngineAct.writesFp) fun _ => rfl
  have hvector := any_write_iff (acts := acts) (p := EngineAct.writesVector) fun _ => rfl
  simp only [UnitUse.off, UnitUse.andOf, UnitOff, Bool.or_eq_true, Bool.and_eq_true, beq_iff_eq, hfp, hvector,
    EngineAct.writesFp, EngineAct.writesVector]

/-- A field that does not read 0 is one of a unit the configuration has. -/
theorem UnitField.on_of_read_ne_zero {cfg : Config} {k : Nat} {on : Bool} (hk : UnitField cfg k on) {m : Word}
    (hne : (mstatusRead cfg m).extractLsb' k 2 ≠ 0#2) : on = true := by
  rw [hk.read] at hne
  cases on with
  | false => exact absurd rfl hne
  | true => rfl

/-- One write behind the gate: its command and the dirtying after it, from a state with the hart and configuration as
they were. -/
theorem executeOp_write_on {s : State} {u : UnitUse} {e : EngineWrite} (w : BitVec 32) (hf : s.hart.fatal = false)
    (hon : ¬ UnitOff s u [.write e]) :
    ∃ t, executeOp (.compute u [.write e]) w s = dirty e.dirtiesFs e.dirtiesVs t ∧
      t.hart = (issue e.command s).hart ∧ t.cfg = s.cfg := by
  obtain ⟨t, hrun, hh, hc⟩ := unitInstr_on w hf (Bool.eq_false_iff.mpr (mt off_andOf_iff.mp hon))
  exact ⟨issue e.command t, hrun, issue_command_hart e hf hh hc, (issue_cfg _ t).trans hc⟩

/-- Dirtying after a write: the write's hart but for `mstatus`, whose field is left 3. -/
theorem UnitField.dirtying_after {s t : State} {h : Hart} {k : Nat} {m : Word} {on : Bool} (hk : UnitField s.cfg k on)
    (hne : (mstatusRead s.cfg m).extractLsb' k 2 ≠ 0#2) (hh : t.hart = h) (hf : h.fatal = false) (hc : t.cfg = s.cfg) :
    let d := (orMstatusAsM (3#64 <<< k) t).hart
    d = { h with csr := { h.csr with mstatus := d.csr.mstatus } } ∧ d.csr.mstatus.extractLsb' k 2 = 3#2 := by
  intro d
  subst hh
  refine ⟨orMstatusAsM_frame hf _, ?_⟩
  rw [orMstatusAsM_mstatus hf, hc]
  exact hk.stored _ (hk.on_of_read_ne_zero hne)

/-- Settles O58: the gate is `UnitOff`, and one write behind it is its command and the dirtying of its unit. -/
theorem fpAndVectorInstructionsNeedAndDirtyTheirUnit :
    Obligations.FpAndVectorInstructionsNeedAndDirtyTheirUnit := by
  unfold Obligations.FpAndVectorInstructionsNeedAndDirtyTheirUnit
  refine fun s u w hf => ⟨fun acts hoff => ?_, fun e hon => ?_⟩
  · rw [injectException_hart (c := 2) hf rfl]
    exact unitInstr_off w hf (off_andOf_iff.mpr hoff)
  · obtain ⟨t, hrun, hh, hc⟩ := executeOp_write_on w hf hon
    have hlive : (issue e.command s).hart.fatal = false := issue_fatal hf (by cases e <;> nofun)
    simp only [hrun]
    cases hfs : e.dirtiesFs with
    | true =>
      have hne : (mstatusRead s.cfg s.hart.csr.mstatus).extractLsb' 13 2 ≠ 0#2 :=
        fun hzero => hon (.inl ⟨.inr ⟨e, by simp, hfs⟩, hzero⟩)
      obtain ⟨hframe, hfield⟩ := UnitField.fs.dirtying_after hne hh hlive hc
      rw [dirtiesVs_of_dirtiesFs hfs]
      exact ⟨fun _ => hframe, fun _ => hfield, nofun, nofun⟩
    | false =>
      cases hvs : e.dirtiesVs with
      | true =>
        have hne : (mstatusRead s.cfg s.hart.csr.mstatus).extractLsb' 9 2 ≠ 0#2 :=
          fun hzero => hon (.inr ⟨.inr ⟨e, by simp, hvs⟩, hzero⟩)
        obtain ⟨hframe, hfield⟩ := UnitField.vs.dirtying_after hne hh hlive hc
        exact ⟨fun _ => hframe, nofun, fun _ => hfield, nofun⟩
      | false => exact ⟨by simp, nofun, nofun, fun _ _ => hh⟩

end Sys2Proof.Machine

/-!
The engine's access checks and step loop (spec 45_client_sequences.md R350, R358, R362): CHECK_ACCESS answers 0 or the
fault of its kind, whose code the engine injects, and a permitted fetch goes on to DECODE from one known hart.
-/

namespace Sys2Proof.Machine

/-! ### The answer of the PMP as the engine reads it (R290, R294, R295) -/

theorem pmpScan_eq_none_or (h : Hart) (a w : Nat) (k : AccessKind) (p : Priv) (is : List Nat) :
    pmpScan h a w k p is = none ∨ pmpScan h a w k p is = some (accessFault k) := by
  induction is with
  | nil =>
    rw [pmpScan]
    split
    · exact .inl rfl
    · exact .inr rfl
  | cons i is ih =>
    rw [pmpScan]
    cases entryResult h i a w k p with
    | success => exact .inl rfl
    | fail => exact .inr rfl
    | _ => exact ih

/-- A check that does not permit answers the access fault of its kind, and no other code. -/
theorem pmpCheck_of_ne_none {cfg : Config} {h : Hart} {a w : Nat} {k : AccessKind} {p : Priv}
    (hne : pmpCheck cfg h a w k p ≠ none) : pmpCheck cfg h a w k p = some (accessFault k) := by
  by_cases hzero : cfg.pmpCount.toNat = 0
  · exact absurd (if_pos hzero) hne
  · rw [pmpCheck, if_neg hzero] at hne ⊢
    exact (pmpScan_eq_none_or h a w k p _).resolve_left hne

/-- The code the engine takes out of the answer is the fault's. -/
theorem excCode_checkResult (k : AccessKind) :
    excCode ((checkResult (some (accessFault k)) &&& 0x3F#64).setWidth 6) = some (accessFault k) := by
  cases k <;> decide

/-! ### Loads and stores (R358, R362) -/

theorem misaligned_iff {d : DataAccess} : d.misaligned = true ↔ d.addr.toNat % d.size.bytes ≠ 0 := by
  rw [DataAccess.misaligned, bne_iff_ne]

/-- A misaligned access that the engine chooses to trap takes its own code, and no check is made. -/
theorem loadStoreCheck_misaligned {d : DataAccess} (s : State) (hmis : d.misaligned = true)
    (htraps : d.trapsMisaligned = true) :
    loadStoreCheck d s = (false, raiseCode d.kind.misalignedCode d.addr s) := by
  rw [loadStoreCheck, hmis, htraps, Bool.and_self, if_pos rfl]

section checked
variable {d : DataAccess} {s : State} {p : Priv} {k : AccessKind}
  (halign : ¬ (d.misaligned && d.trapsMisaligned) = true) (hf : s.hart.fatal = false) (hp : DataLevel s p)
  (hk : accessKindOf d.kind.access = some k)
include halign hf hp hk

theorem loadStoreCheck_permitted (hcheck : pmpCheck s.cfg s.hart d.addr.toNat 8 k p = none) :
    (loadStoreCheck d s).1 = true ∧ (loadStoreCheck d s).2.hart = s.hart := by
  obtain ⟨hanswer, hhart, -⟩ := checkData_eq (a := d.addr) hf hk hp
  rw [pmpCheckWidth, hcheck] at hanswer
  rw [loadStoreCheck, if_neg halign]
  simpa [hanswer, checkResult] using hhart

theorem loadStoreCheck_denied (hcheck : pmpCheck s.cfg s.hart d.addr.toNat 8 k p ≠ none) :
    (loadStoreCheck d s).1 = false ∧
    (loadStoreCheck d s).2.hart = takeException s.cfg s.hart (accessFault k) d.addr := by
  obtain ⟨hanswer, hhart, hcfg⟩ := checkData_eq (a := d.addr) hf hk hp
  rw [pmpCheckWidth, pmpCheck_of_ne_none hcheck] at hanswer
  rw [loadStoreCheck, if_neg halign]
  simp only [hanswer, ne_eq, checkResult_accessFault_ne_zero, not_false_iff, if_true, true_and]
  rw [raiseCode_hart (by rw [hhart]; exact hf) (excCode_checkResult k), hhart, hcfg]

end checked

/-- The three outcomes of the checks, for an access of kind `k` whose fault has the code `fault`. -/
theorem loadStoreCheck_outcome {d : DataAccess} {s : State} {p : Priv} {k : AccessKind} {fault : BitVec 6}
    (hf : s.hart.fatal = false) (hp : DataLevel s p) (hk : accessKindOf d.kind.access = some k)
    (hfault : excCode fault = some (accessFault k)) :
    if d.addr.toNat % d.size.bytes ≠ 0 ∧ d.trapsMisaligned = true then
      (loadStoreCheck d s).1 = false ∧
      (loadStoreCheck d s).2.hart = (issue (.injectException d.kind.misalignedCode d.addr) s).hart
    else if pmpCheck s.cfg s.hart d.addr.toNat 8 k p = none then
      (loadStoreCheck d s).1 = true ∧ (loadStoreCheck d s).2.hart = s.hart
    else
      (loadStoreCheck d s).1 = false ∧
      (loadStoreCheck d s).2.hart = (issue (.injectException fault d.addr) s).hart := by
  split
  next hmis =>
    rw [loadStoreCheck_misaligned s (misaligned_iff.mpr hmis.1) hmis.2]
    exact ⟨rfl, rfl⟩
  next halign =>
    rw [← misaligned_iff, ← Bool.and_eq_true] at halign
    split
    next hcheck => exact loadStoreCheck_permitted halign hf hp hk hcheck
    next hcheck =>
      rw [injectException_hart hf hfault]
      exact loadStoreCheck_denied halign hf hp hk hcheck

/-- Settles O59: a load is a Read, whose fault is code 5, and a store a Write, whose fault is code 7. -/
theorem loadStoreChecks : Obligations.LoadStoreChecks := by
  unfold Obligations.LoadStoreChecks
  rintro s ⟨kind, size, addr, trapsMisaligned⟩ p hf hp
  cases kind with
  | load => exact loadStoreCheck_outcome (k := .read) (fault := 5) hf hp rfl rfl
  | store => exact loadStoreCheck_outcome (k := .write) (fault := 7) hf hp rfl rfl

/-! ### The step loop (R350) -/

theorem issue_readPc {s : State} (hf : s.hart.fatal = false) : issue .readPc s = s.answer .ok s.hart.pc := by
  rw [issue, exec, execReadPc, checked_safe hf, reply]

theorem issue_decode {s : State} (hf : s.hart.fatal = false) (w : BitVec 32) :
    issue (.decode (w.setWidth 64)) s = s.answerOper (decodeFn w) := by
  rw [issue, exec_decode hf]

/-- STEP after a trap the engine raises. -/
theorem pseudoStep_raiseCode_hart (kind : BitVec 6) (v : Word) {s : State} (hf : s.hart.fatal = false) :
    (pseudoStep (raiseCode kind v s)).hart =
      { (raiseCode kind v s).hart with pc := (raiseCode kind v s).hart.nextPC } :=
  pseudoStep_hart (issue_fatal hf nofun)

/-- The state before the fetch check: GET_PRIV and READ_PC have answered, and nothing else has changed. -/
def State.beforeFetch (s : State) : State :=
  (s.answer .ok (s.hart.priv.enc.setWidth 64)).answer .ok s.hart.pc

/-- The step loop past its first two reads: the answer of the fetch check decides between the trap and the rest. -/
theorem engineStep_eq (e : Engine) {s : State} {r : Word} (hf : s.hart.fatal = false)
    (hr : checkResult (pmpCheck s.cfg s.hart s.hart.pc.toNat 8 .exec s.hart.priv) = r) :
    engineStep e s =
      if r ≠ 0 then pseudoStep (raiseCode ((r &&& 0x3F#64).setWidth 6) s.hart.pc (s.beforeFetch.answer .ok r))
      else
        engineDecodeExecute e (e.fetch s.hart.pc)
          (issue (.writeNextPc (s.hart.pc + (e.length (e.fetch s.hart.pc)).bytes)) (s.beforeFetch.answer .ok r)) := by
  have hpriv := issue_getPriv hf
  have hpc := issue_readPc (s := s.answer .ok (s.hart.priv.enc.setWidth 64)) hf
  have hcheck : issue (.checkAccess 2 s.hart.pc) s.beforeFetch = s.beforeFetch.answer .ok r :=
    hr ▸ issue_checkAccess (s := s.beforeFetch) hf rfl
  unfold State.beforeFetch at hcheck ⊢
  simp only [engineStep, ask, hpriv, hpc, answer_rdata, answer_hart, hcheck]

/-- A denied fetch: the access fault at `pc`, and STEP. -/
theorem engineStep_of_denied (e : Engine) {s : State} (hf : s.hart.fatal = false)
    (hcheck : pmpCheck s.cfg s.hart s.hart.pc.toNat 8 .exec s.hart.priv ≠ none) :
    (engineStep e s).hart =
      { takeException s.cfg s.hart 1 s.hart.pc with pc := (takeException s.cfg s.hart 1 s.hart.pc).nextPC } := by
  rw [engineStep_eq e hf (congrArg checkResult (pmpCheck_of_ne_none hcheck)),
    if_pos (checkResult_accessFault_ne_zero .exec), pseudoStep_raiseCode_hart _ _ (s := s.beforeFetch.answer .ok _) hf,
    raiseCode_hart (s := s.beforeFetch.answer .ok _) hf (excCode_checkResult .exec)]
  rfl

/-- The state after a permitted fetch: `nextPC` is the fall-through address. -/
def State.fetched (e : Engine) (s : State) : State :=
  ((s.beforeFetch.answer .ok 0).setHart
    { s.hart with nextPC := s.hart.pc + (e.length (e.fetch s.hart.pc)).bytes }).answer .ok 0

@[simp] theorem fetched_hart (e : Engine) (s : State) :
    (s.fetched e).hart = { s.hart with nextPC := s.hart.pc + (e.length (e.fetch s.hart.pc)).bytes } := rfl

/-- A permitted fetch: the fall-through address, and the rest from DECODE on. -/
theorem engineStep_of_permitted (e : Engine) {s : State} (hf : s.hart.fatal = false)
    (hcheck : pmpCheck s.cfg s.hart s.hart.pc.toNat 8 .exec s.hart.priv = none) :
    engineStep e s = engineDecodeExecute e (e.fetch s.hart.pc) (s.fetched e) := by
  rw [engineStep_eq e hf (congrArg checkResult hcheck), checkResult, if_neg (not_not.mpr rfl),
    issue_writeNextPc (s := s.beforeFetch.answer .ok 0) hf]
  rfl

theorem engineDecodeExecute_illegal (e : Engine) {w b : BitVec 32} {s : State} (hf : s.hart.fatal = false)
    (hd : decodeFn w = .illegal b) :
    engineDecodeExecute e w s = pseudoStep (raiseCode 2 (b.setWidth 64) (s.answerOper (.illegal b))) := by
  rw [engineDecodeExecute, issue_decode hf, hd]
  rfl

theorem engineDecodeExecute_structured (e : Engine) {w : BitVec 32} {n : Nat} {s : State} (hf : s.hart.fatal = false)
    (hd : decodeFn w = .structured n) :
    engineDecodeExecute e w s =
      pseudoStep (executeOp (e.interpret (.structured n) w (s.answerOper (.structured n))) w
        (s.answerOper (.structured n))) := by
  rw [engineDecodeExecute, issue_decode hf, hd]
  rfl

/-- The address moves by 2 or 4. -/
theorem bytes_two_or_four (l : InstrLength) : l.bytes = 2 ∨ l.bytes = 4 := by
  cases l with
  | two => exact .inl rfl
  | four => exact .inr rfl

theorem fetch_eq (e : Engine) (a : Word) :
    e.memory (a + 3) ++ e.memory (a + 2) ++ e.memory (a + 1) ++ e.memory a = e.fetch a := rfl

/-- Settles O60: the fetch check decides between the access fault and DECODE, and DECODE's answer between code 2 and the
execution, each from the state whose `nextPC` is the fall-through address. -/
theorem engineStepRunsOneInstruction : Obligations.EngineStepRunsOneInstruction := by
  unfold Obligations.EngineStepRunsOneInstruction
  intro e s hf
  split
  next hdenied =>
    rw [injectException_hart (c := 1) hf rfl]
    exact engineStep_of_denied e hf hdenied
  next hpermitted =>
    have hstep := engineStep_of_permitted e hf (not_not.mp hpermitted)
    simp only [fetch_eq]
    refine ⟨(s.fetched e).answerOper (decodeFn (e.fetch s.hart.pc)), rfl, ?_, fun hlen => ?_, fun hlen => ?_, ?_⟩
    · rcases bytes_two_or_four (e.length (e.fetch s.hart.pc)) with hbytes | hbytes <;> simp [hbytes]
    · simp [hlen, InstrLength.bytes]
    · simp [hlen, InstrLength.bytes]
    · cases hd : decodeFn (e.fetch s.hart.pc) with
      | illegal b =>
        rw [hstep, engineDecodeExecute_illegal e (s := s.fetched e) hf hd]
        exact pseudoStep_raiseCode_hart 2 _ hf
      | structured n => exact hstep.trans (engineDecodeExecute_structured e (s := s.fetched e) hf hd)

end Sys2Proof.Machine

/-!
The exception codes (spec 60_exceptions.md R381): every code up to 15 is taken, at S or at M, and the codes whose
`medeleg` bits are read-only 0 (10_state.md R35) are taken at M from every level.
-/

namespace Sys2Proof.Machine

/-- A trap goes to M or to S, never to U (R262). -/
theorem delegatee_machine_or_supervisor (cfg : Config) (medeleg : Word) (c : ExcCode) (cur : Priv) :
    delegatee cfg medeleg c cur = .M ∨ delegatee cfg medeleg c cur = .S := by
  rw [delegatee_eq]
  split
  · exact .inr rfl
  · exact .inl rfl

/-- A `medeleg` that holds only its writable bits delegates none of the codes 10, 11 and 14 (R35). -/
theorem medeleg_undelegatable {medeleg : Word} (hwithin : medeleg &&& ~~~0xB3FF#64 = 0) {code : Nat}
    (hcode : code ∈ [10, 11, 14]) : ¬ medeleg.getLsbD code = true := by
  have hmask : ∀ n ∈ [10, 11, 14], ¬ (0xB3FF#64).getLsbD n = true := by decide
  exact fun hset => hmask code hcode (and_not_eq_zero_iff.mp hwithin code hset)

/-- Settles O36: the trap of any code up to 15 completes at the level `delegatee` gives, and at M for a code whose
`medeleg` bit is read-only 0. -/
theorem undelegatableCodesTrapToMachine : Obligations.UndelegatableCodesTrapToMachine := by
  unfold Obligations.UndelegatableCodesTrapToMachine
  refine ⟨fun s kind v hf hkind => ?_, fun s kind v hf hwithin hcode => ?_⟩
  · exact ⟨_, completes_injectException (c := ⟨kind.toNat, Nat.lt_succ_of_le hkind⟩) v hf rfl,
      delegatee_machine_or_supervisor _ _ _ _⟩
  · have hle : ∀ n ∈ [10, 11, 14], n ≤ 15 := by decide
    have hmachine := completes_injectException_machine v hf (hle _ hcode)
      fun hdelegated => medeleg_undelegatable hwithin hcode hdelegated.2.1
    exact ⟨_, hmachine, rfl, rfl, rfl⟩

end Sys2Proof.Machine
